-- ==== Sys2Proof/Word.lean ====
section
/-! DEFINITION. The word types of the block: bytes, 32-bit register words, 4-bit code lengths (00_scope.md R9). -/

namespace Sys2Proof

/-- A byte, bits 7 down to 0 (R9). -/
abbrev Byte := BitVec 8

/-- A 32-bit register value (10_state.md R40). -/
abbrev Word := BitVec 32

/-- One Huffman code length, 0 to 15, 0 meaning that the symbol has no code (10_state.md R23). -/
abbrev CodeLen := BitVec 4

end Sys2Proof
end

