-- ==== Sys2Proof/Config.lean ====
section
/-! DEFINITION. What the spec leaves to a realisation (the open parameters of 00_scope.md R7) and the free values. -/

namespace Sys2Proof

/-- The buffers whose contents the spec leaves unspecified after reset (10_state.md R50, R55). -/
inductive Space
  | input | out | win | din | raw
  deriving DecidableEq, Repr

/-- `P_INCOMPLETE` (41_blocks_and_tables.md R163): which incomplete Huffman code sets fault. -/
inductive Policy
  | strict
  | rfc
  deriving DecidableEq, Repr

/-- The open parameters a model takes as arguments (R7). State holds one value of this type, which no step writes, so
that a statement about every state is a statement about every value of the parameters. -/
structure Params where
  /-- `P_INCOMPLETE`. -/
  incomplete : Policy
  /-- `CNT_W`: the width of the counters, `none` for the unbounded naturals of the model (10_state.md R24). -/
  cntW : Option Nat
  deriving DecidableEq, Repr

/-- The defaults of 92_eei_decisions.md section 6: `strict`, and unbounded counters. -/
def Params.standard : Params := ⟨.strict, none⟩

/-- FREE VALUE (log entry 4): what a buffer holds at an address nothing has written since the unit's last reset
(10_state.md R55, 93_implementation_defined.md U1). The second argument counts the unit's resets. -/
opaque Config.unwrittenByte : Space → Nat → Nat → Byte

/-- FREE VALUE (log entry 6): what the host reads from an output buffer where the spec gives no content
(93_implementation_defined.md U3, U16). The argument counts such reads. -/
opaque Config.unspecifiedRead : Nat → Byte

/-- FREE VALUE (log entry 1): which of two busy units steps next (10_state.md R20); true for INF. The argument counts
such choices. -/
opaque Config.arbiter : Nat → Bool

end Sys2Proof
end

