-- ==== Sys2Proof/Syntax.lean ====
section
/-! DEFINITION. The instructions of the block: one constructor for each row of spec/opcode_table.json.
An instruction is one stream element of INF, one scanline of DEF or one register command (00_scope.md R8). Its operands are
the fields its encoding carries (30_encoding.md R109). The bytes a stored block or a scanline copies are not operands: they
are read from the input buffer when the instruction runs. -/

namespace Sys2Proof

/-- The units (10_state.md R20): INF, CRC and DEF. -/
inductive UnitId
  | inf | crc | dfl
  deriving DecidableEq, Repr

/-- The instructions of the three units. -/
inductive Instr
  /-- `ZHDR` (R91): the bytes `CMF` and `FLG`. -/
  | zhdr (cmf flg : Byte)
  /-- `BLK.STORED` (R92, R151): a block header of type 0 with its final-block flag. -/
  | blkStored (bfinal : Bool)
  /-- `BLK.FIXED` (R92, R152): a block header of type 1. -/
  | blkFixed (bfinal : Bool)
  /-- `BLK.DYN` (R92, R153): a block header of type 2. -/
  | blkDyn (bfinal : Bool)
  /-- `BLK.RSV` (R92, R154): a block header of the invalid type 3. -/
  | blkRsv (bfinal : Bool)
  /-- `STORED` (R93): the pair `LEN`, `NLEN`; the data bytes follow it in `IN`. -/
  | stored (len nlen : BitVec 16)
  /-- `DYNHDR` (R94): `HLIT`, `HDIST`, `HCLEN`. -/
  | dynhdr (hlit hdist : BitVec 5) (hclen : BitVec 4)
  /-- `CLENS` (R95): the code-length-code lengths in transmitted order. -/
  | clens (lens : List (BitVec 3))
  /-- `CL0` (R96, R158): the next code length is 0. -/
  | cl0
  /-- `CL1` (R96, R158): the next code length is 1. -/
  | cl1
  /-- `CL2` (R96, R158): the next code length is 2. -/
  | cl2
  /-- `CL3` (R96, R158): the next code length is 3. -/
  | cl3
  /-- `CL4` (R96, R158): the next code length is 4. -/
  | cl4
  /-- `CL5` (R96, R158): the next code length is 5. -/
  | cl5
  /-- `CL6` (R96, R158): the next code length is 6. -/
  | cl6
  /-- `CL7` (R96, R158): the next code length is 7. -/
  | cl7
  /-- `CL8` (R96, R158): the next code length is 8. -/
  | cl8
  /-- `CL9` (R96, R158): the next code length is 9. -/
  | cl9
  /-- `CL10` (R96, R158): the next code length is 10. -/
  | cl10
  /-- `CL11` (R96, R158): the next code length is 11. -/
  | cl11
  /-- `CL12` (R96, R158): the next code length is 12. -/
  | cl12
  /-- `CL13` (R96, R158): the next code length is 13. -/
  | cl13
  /-- `CL14` (R96, R158): the next code length is 14. -/
  | cl14
  /-- `CL15` (R96, R158): the next code length is 15. -/
  | cl15
  /-- `CL16` (R96, R159): repeat the previous length `3 + x` times. -/
  | cl16 (x : BitVec 2)
  /-- `CL17` (R96, R160): `3 + x` zeros. -/
  | cl17 (x : BitVec 3)
  /-- `CL18` (R96, R161): `11 + x` zeros. -/
  | cl18 (x : BitVec 7)
  /-- `TABLES` (R162): table completion; it has no bits of its own. -/
  | tables
  /-- `LIT` (R97, R192): a literal byte. -/
  | lit (v : Byte)
  /-- `EOB` (R97, R193): end of block, symbol 256. -/
  | eob
  /-- `LEN257` (R98): match length 3; a distance symbol follows. -/
  | len257
  /-- `LEN258` (R98): match length 4; a distance symbol follows. -/
  | len258
  /-- `LEN259` (R98): match length 5; a distance symbol follows. -/
  | len259
  /-- `LEN260` (R98): match length 6; a distance symbol follows. -/
  | len260
  /-- `LEN261` (R98): match length 7; a distance symbol follows. -/
  | len261
  /-- `LEN262` (R98): match length 8; a distance symbol follows. -/
  | len262
  /-- `LEN263` (R98): match length 9; a distance symbol follows. -/
  | len263
  /-- `LEN264` (R98): match length 10; a distance symbol follows. -/
  | len264
  /-- `LEN265` (R98): match length 11 + x; a distance symbol follows. -/
  | len265 (x : BitVec 1)
  /-- `LEN266` (R98): match length 13 + x; a distance symbol follows. -/
  | len266 (x : BitVec 1)
  /-- `LEN267` (R98): match length 15 + x; a distance symbol follows. -/
  | len267 (x : BitVec 1)
  /-- `LEN268` (R98): match length 17 + x; a distance symbol follows. -/
  | len268 (x : BitVec 1)
  /-- `LEN269` (R98): match length 19 + x; a distance symbol follows. -/
  | len269 (x : BitVec 2)
  /-- `LEN270` (R98): match length 23 + x; a distance symbol follows. -/
  | len270 (x : BitVec 2)
  /-- `LEN271` (R98): match length 27 + x; a distance symbol follows. -/
  | len271 (x : BitVec 2)
  /-- `LEN272` (R98): match length 31 + x; a distance symbol follows. -/
  | len272 (x : BitVec 2)
  /-- `LEN273` (R98): match length 35 + x; a distance symbol follows. -/
  | len273 (x : BitVec 3)
  /-- `LEN274` (R98): match length 43 + x; a distance symbol follows. -/
  | len274 (x : BitVec 3)
  /-- `LEN275` (R98): match length 51 + x; a distance symbol follows. -/
  | len275 (x : BitVec 3)
  /-- `LEN276` (R98): match length 59 + x; a distance symbol follows. -/
  | len276 (x : BitVec 3)
  /-- `LEN277` (R98): match length 67 + x; a distance symbol follows. -/
  | len277 (x : BitVec 4)
  /-- `LEN278` (R98): match length 83 + x; a distance symbol follows. -/
  | len278 (x : BitVec 4)
  /-- `LEN279` (R98): match length 99 + x; a distance symbol follows. -/
  | len279 (x : BitVec 4)
  /-- `LEN280` (R98): match length 115 + x; a distance symbol follows. -/
  | len280 (x : BitVec 4)
  /-- `LEN281` (R98): match length 131 + x; a distance symbol follows. -/
  | len281 (x : BitVec 5)
  /-- `LEN282` (R98): match length 163 + x; a distance symbol follows. -/
  | len282 (x : BitVec 5)
  /-- `LEN283` (R98): match length 195 + x; a distance symbol follows. -/
  | len283 (x : BitVec 5)
  /-- `LEN284` (R98): match length 227 + x; a distance symbol follows. -/
  | len284 (x : BitVec 5)
  /-- `LEN285` (R98): match length 258; a distance symbol follows. -/
  | len285
  /-- `RSV286` (R97, R195): reserved literal/length symbol 286. -/
  | rsv286
  /-- `RSV287` (R97, R195): reserved literal/length symbol 287. -/
  | rsv287
  /-- `DIST0` (R99): match distance 1. -/
  | dist0
  /-- `DIST1` (R99): match distance 2. -/
  | dist1
  /-- `DIST2` (R99): match distance 3. -/
  | dist2
  /-- `DIST3` (R99): match distance 4. -/
  | dist3
  /-- `DIST4` (R99): match distance 5 + x. -/
  | dist4 (x : BitVec 1)
  /-- `DIST5` (R99): match distance 7 + x. -/
  | dist5 (x : BitVec 1)
  /-- `DIST6` (R99): match distance 9 + x. -/
  | dist6 (x : BitVec 2)
  /-- `DIST7` (R99): match distance 13 + x. -/
  | dist7 (x : BitVec 2)
  /-- `DIST8` (R99): match distance 17 + x. -/
  | dist8 (x : BitVec 3)
  /-- `DIST9` (R99): match distance 25 + x. -/
  | dist9 (x : BitVec 3)
  /-- `DIST10` (R99): match distance 33 + x. -/
  | dist10 (x : BitVec 4)
  /-- `DIST11` (R99): match distance 49 + x. -/
  | dist11 (x : BitVec 4)
  /-- `DIST12` (R99): match distance 65 + x. -/
  | dist12 (x : BitVec 5)
  /-- `DIST13` (R99): match distance 97 + x. -/
  | dist13 (x : BitVec 5)
  /-- `DIST14` (R99): match distance 129 + x. -/
  | dist14 (x : BitVec 6)
  /-- `DIST15` (R99): match distance 193 + x. -/
  | dist15 (x : BitVec 6)
  /-- `DIST16` (R99): match distance 257 + x. -/
  | dist16 (x : BitVec 7)
  /-- `DIST17` (R99): match distance 385 + x. -/
  | dist17 (x : BitVec 7)
  /-- `DIST18` (R99): match distance 513 + x. -/
  | dist18 (x : BitVec 8)
  /-- `DIST19` (R99): match distance 769 + x. -/
  | dist19 (x : BitVec 8)
  /-- `DIST20` (R99): match distance 1025 + x. -/
  | dist20 (x : BitVec 9)
  /-- `DIST21` (R99): match distance 1537 + x. -/
  | dist21 (x : BitVec 9)
  /-- `DIST22` (R99): match distance 2049 + x. -/
  | dist22 (x : BitVec 10)
  /-- `DIST23` (R99): match distance 3073 + x. -/
  | dist23 (x : BitVec 10)
  /-- `DIST24` (R99): match distance 4097 + x. -/
  | dist24 (x : BitVec 11)
  /-- `DIST25` (R99): match distance 6145 + x. -/
  | dist25 (x : BitVec 11)
  /-- `DIST26` (R99): match distance 8193 + x. -/
  | dist26 (x : BitVec 12)
  /-- `DIST27` (R99): match distance 12289 + x. -/
  | dist27 (x : BitVec 12)
  /-- `DIST28` (R99): match distance 16385 + x. -/
  | dist28 (x : BitVec 13)
  /-- `DIST29` (R99): match distance 24577 + x. -/
  | dist29 (x : BitVec 13)
  /-- `RSV30` (R99, R197): reserved distance symbol 30. -/
  | rsv30
  /-- `RSV31` (R99, R197): reserved distance symbol 31. -/
  | rsv31
  /-- `ZTRAILER` (R101): the 32-bit trailer value. -/
  | ztrailer (t : Word)
  /-- `FT0` (R107, R244): a scanline with filter type None. -/
  | ft0
  /-- `FT1` (R107, R245): a scanline with filter type Sub. -/
  | ft1
  /-- `FT2` (R107, R246): a scanline with filter type Up. -/
  | ft2
  /-- `FT3` (R107, R247): a scanline with filter type Average. -/
  | ft3
  /-- `FT4` (R107, R248): a scanline with filter type Paeth. -/
  | ft4
  /-- `FT.INVALID` (R107, R250): a scanline whose filter-type byte is 5 to 255. -/
  | ftInvalid (ft : Byte)
  /-- `DEF.END` (R251): the end step of DEF; it consumes nothing. -/
  | defEnd
  /-- `INIT` (R108, R221): begin a new chunk checksum. -/
  | init
  /-- `BYTE` (R108, R222): feed one byte to the checksum. -/
  | byte (b : Byte)
  /-- `CHECK` (R108, R223): compare with the stored checksum. -/
  | check (e : Word)
  /-- `INF.START` (10_state.md R44, R56). -/
  | infStart
  /-- `DEF.START` (R44, 44_defilter.md R241). -/
  | defStart
  /-- `INF.RESET` (R44, 70_reset_and_hazards.md R310). -/
  | infReset
  /-- `CRC.RESET` (R44, R310). -/
  | crcReset
  /-- `DEF.RESET` (R44, R310). -/
  | defReset
  deriving DecidableEq, Repr

end Sys2Proof
end

