-- ==== Sys2Proof/WellFormed.lean ====
section
/-! DEFINITION. Which instruction terms stand for an encoding. The operand types admit exactly the values of their fields;
two rows need a check beyond their type. -/

namespace Sys2Proof

/-- A term that some stream or register write encodes: `CLENS` carries 4 to 19 lengths (30_encoding.md R94, R95), and
`FT.INVALID` a filter-type byte of 5 to 255 (R107, R250). -/
def Instr.wellFormed : Instr → Bool
  | .clens lens => 4 ≤ lens.length && lens.length ≤ 19
  | .ftInvalid ft => 5 ≤ ft.toNat
  | .zhdr _ _ | .blkStored _ | .blkFixed _ | .blkDyn _ | .blkRsv _ | .stored _ _ | .dynhdr _ _ _ | .cl0 | .cl1 | .cl2 | .cl3 | .cl4
  | .cl5 | .cl6 | .cl7 | .cl8 | .cl9 | .cl10 | .cl11 | .cl12 | .cl13 | .cl14 | .cl15 | .cl16 _
  | .cl17 _ | .cl18 _ | .lit _ | .eob | .len257 | .len258 | .len259 | .len260 | .len261 | .len262 | .len263 | .len264
  | .len265 _ | .len266 _ | .len267 _ | .len268 _ | .len269 _ | .len270 _ | .len271 _ | .len272 _ | .len273 _ | .len274 _ | .len275 _ | .len276 _
  | .len277 _ | .len278 _ | .len279 _ | .len280 _ | .len281 _ | .len282 _ | .len283 _ | .len284 _ | .len285 | .rsv286 | .rsv287 | .dist0
  | .dist1 | .dist2 | .dist3 | .dist4 _ | .dist5 _ | .dist6 _ | .dist7 _ | .dist8 _ | .dist9 _ | .dist10 _ | .dist11 _ | .dist12 _
  | .dist13 _ | .dist14 _ | .dist15 _ | .dist16 _ | .dist17 _ | .dist18 _ | .dist19 _ | .dist20 _ | .dist21 _ | .dist22 _ | .dist23 _ | .dist24 _
  | .dist25 _ | .dist26 _ | .dist27 _ | .dist28 _ | .dist29 _ | .rsv30 | .rsv31 | .tables | .ztrailer _ | .ft0 | .ft1 | .ft2
  | .ft3 | .ft4 | .defEnd | .init | .byte _ | .check _ | .infStart | .defStart | .infReset | .crcReset | .defReset => true

end Sys2Proof
end

