-- ==== Sys2Proof/Decode.lean ====
section
/-! DEFINITION. The decoder, total on any bits and any context, and after it the encoder.
The bits of an element mean what the phase and the code lengths in force make of them (30_encoding.md R111), so both take a
context. A list of bits is in stream order: its head is the next bit (20_memory.md R61). -/

namespace Sys2Proof

/-! ### Fields of bits (20_memory.md R62) -/

/-- Read an `n`-bit field, least significant bit first (R62 (a)); `none` when fewer than `n` bits remain (R66). -/
def takeBits : Nat → List Bool → Option (Nat × List Bool)
  | 0, bs => some (0, bs)
  | _ + 1, [] => none
  | n + 1, b :: bs =>
    match takeBits n bs with
    | some (v, rest) => some (b.toNat + 2 * v, rest)
    | none => none

/-- Write the low `n` bits of `v`, least significant bit first (R62 (a)). -/
def fieldBits : Nat → Nat → List Bool
  | 0, _ => []
  | n + 1, v => (v % 2 == 1) :: fieldBits n (v / 2)

/-! ### Huffman codes (30_encoding.md R102 to R104) -/

/-- `cnt[L]` of R102 and R103: how many symbols have length `L`; zeros are not counted. -/
def countLen (lens : List CodeLen) (L : Nat) : Nat :=
  if L = 0 then 0 else lens.countP fun l => l.toNat == L

/-- The first code of length `L` (`next[L]` of R103 before any code is assigned). -/
def firstCode (lens : List CodeLen) : Nat → Nat
  | 0 => 0
  | L + 1 => 2 * (firstCode lens L + countLen lens L)

/-- `codeof[s]` of R103: the first code of the symbol's length plus the number of smaller symbols of that length. -/
def codeOf (lens : List CodeLen) (s : Nat) : Nat :=
  let L := (lens.getD s 0).toNat
  firstCode lens L + (lens.take s).countP fun l => l.toNat == L

/-- The symbols of length `L` in ascending order, numbered from `s`. -/
def symbolsOfLen (L : Nat) : Nat → List CodeLen → List Nat
  | _, [] => []
  | s, l :: ls => if l.toNat = L then s :: symbolsOfLen L (s + 1) ls else symbolsOfLen L (s + 1) ls

/-- The symbol whose code is the `L`-bit number `c`, if there is one (R104). -/
def symbolOfCode (lens : List CodeLen) (L c : Nat) : Option Nat :=
  if firstCode lens L ≤ c then (symbolsOfLen L 0 lens)[c - firstCode lens L]? else none

/-- Why the decoder rejects. -/
inductive Reject
  /-- Fewer bits (or, in DEF, bytes) remain than the element needs (R66, R271). -/
  | endOfInput
  /-- No code of the set in force matches in 15 bits (R104). -/
  | noCode
  /-- `CL16` as the first code-length symbol of a block, with its extra bits missing too (R159, R283). -/
  | noPrevious
  /-- The code lengths in force are more than the alphabet has symbols; no context of the machine is so. -/
  | noSymbol
  /-- A register write that is no command (10_state.md R40). -/
  | notCommand
  deriving DecidableEq, Repr

/-- The loop of `huff` (R104) at length `L` with the `L - 1` bits read so far in `c`. -/
def huffFrom (lens : List CodeLen) : Nat → Nat → Nat → List Bool → Except Reject (Nat × List Bool)
  | 0, _, _, _ => .error .noCode
  | _ + 1, _, _, [] => .error .endOfInput
  | fuel + 1, L, c, b :: bs =>
    match symbolOfCode lens L (2 * c + b.toNat) with
    | some s => .ok (s, bs)
    | none => huffFrom lens fuel (L + 1) (2 * c + b.toNat) bs

/-- `huff(lens)` (R104): decode one symbol, most significant code bit first, in at most 15 bits. -/
def huff (lens : List CodeLen) (bits : List Bool) : Except Reject (Nat × List Bool) :=
  huffFrom lens 15 1 0 bits

/-- The bits of the code of symbol `s`, most significant bit first (R103, R62 (b)). -/
def codeBits (lens : List CodeLen) (s : Nat) : List Bool :=
  (fieldBits (lens.getD s 0).toNat (codeOf lens s)).reverse

/-- How a set of code lengths uses the code space (R102). -/
inductive Completeness
  | overSubscribed | complete | incomplete
  deriving DecidableEq, Repr

/-- The loop of R102 from length `L` on, with the code space left. -/
def classifyFrom (lens : List CodeLen) : Nat → Nat → Nat → Completeness
  | 0, _, left => if left = 0 then .complete else .incomplete
  | fuel + 1, L, left =>
    if 2 * left < countLen lens L then .overSubscribed
    else classifyFrom lens fuel (L + 1) (2 * left - countLen lens L)

/-- Classify a set of code lengths (R102). -/
def classify (lens : List CodeLen) : Completeness := classifyFrom lens 15 1 1

/-! ### Contexts -/

/-- What the next bits are, and the code lengths that give them a meaning (R111). -/
inductive Ctx
  | zhdr
  | blkhdr
  /-- The body of a stored block after `pad` bits (R93). -/
  | stored (pad : Nat)
  | dynhdr
  /-- `ncode` code-length-code lengths (R95). -/
  | dynclen (ncode : Nat)
  /-- A code-length symbol (R96); `first` when no length has been read in this block. -/
  | dynlens (cl : List CodeLen) (first : Bool)
  /-- All code lengths are read: table completion, which has no bits (R162). -/
  | tables
  /-- A literal/length symbol (R97). -/
  | sym (ll : List CodeLen)
  /-- The distance half of a match (R99, R100). -/
  | dist (d : List CodeLen)
  /-- The zlib trailer after `pad` bits (R101). -/
  | trailer (pad : Nat)
  /-- The filter-type byte of a scanline (R107). -/
  | row
  /-- The end step of DEF (R251). -/
  | defEnd
  /-- A host write to register `n` of a unit (R108, 10_state.md R44); the bits are the value written. -/
  | reg (u : UnitId) (n : Nat)
  deriving DecidableEq, Repr

/-! ### Extra bits and symbol numbers (R96, R98, R99) -/

/-- The number of extra bits of code-length symbol `s` (R96). -/
def clExtra : Nat → Nat
  | 16 => 2
  | 17 => 3
  | 18 => 7
  | _ => 0

/-- `LEXT`: the number of extra bits of literal/length symbol `s` (R98); literals and `EOB` have none. -/
def lenExtra (s : Nat) : Nat :=
  if s < 265 ∨ 285 ≤ s then 0 else (s - 261) / 4

/-- `DEXT`: the number of extra bits of distance symbol `t` (R99); the reserved symbols have none. -/
def distExtra (t : Nat) : Nat :=
  if t < 4 ∨ 30 ≤ t then 0 else (t - 2) / 2

/-- The code-length element of symbol `s` with extra value `x` (R96). -/
def mkCl (s x : Nat) : Option Instr :=
  match s with
  | 0 => some .cl0
  | 1 => some .cl1
  | 2 => some .cl2
  | 3 => some .cl3
  | 4 => some .cl4
  | 5 => some .cl5
  | 6 => some .cl6
  | 7 => some .cl7
  | 8 => some .cl8
  | 9 => some .cl9
  | 10 => some .cl10
  | 11 => some .cl11
  | 12 => some .cl12
  | 13 => some .cl13
  | 14 => some .cl14
  | 15 => some .cl15
  | 16 => some (.cl16 (BitVec.ofNat 2 x))
  | 17 => some (.cl17 (BitVec.ofNat 3 x))
  | 18 => some (.cl18 (BitVec.ofNat 7 x))
  | _ => none

/-- The element of literal/length symbol `s` with extra value `x` (R97, R98). -/
def mkSym (s x : Nat) : Option Instr :=
  if s < 256 then some (.lit (BitVec.ofNat 8 s)) else
  match s with
  | 256 => some .eob
  | 257 => some .len257
  | 258 => some .len258
  | 259 => some .len259
  | 260 => some .len260
  | 261 => some .len261
  | 262 => some .len262
  | 263 => some .len263
  | 264 => some .len264
  | 265 => some (.len265 (BitVec.ofNat 1 x))
  | 266 => some (.len266 (BitVec.ofNat 1 x))
  | 267 => some (.len267 (BitVec.ofNat 1 x))
  | 268 => some (.len268 (BitVec.ofNat 1 x))
  | 269 => some (.len269 (BitVec.ofNat 2 x))
  | 270 => some (.len270 (BitVec.ofNat 2 x))
  | 271 => some (.len271 (BitVec.ofNat 2 x))
  | 272 => some (.len272 (BitVec.ofNat 2 x))
  | 273 => some (.len273 (BitVec.ofNat 3 x))
  | 274 => some (.len274 (BitVec.ofNat 3 x))
  | 275 => some (.len275 (BitVec.ofNat 3 x))
  | 276 => some (.len276 (BitVec.ofNat 3 x))
  | 277 => some (.len277 (BitVec.ofNat 4 x))
  | 278 => some (.len278 (BitVec.ofNat 4 x))
  | 279 => some (.len279 (BitVec.ofNat 4 x))
  | 280 => some (.len280 (BitVec.ofNat 4 x))
  | 281 => some (.len281 (BitVec.ofNat 5 x))
  | 282 => some (.len282 (BitVec.ofNat 5 x))
  | 283 => some (.len283 (BitVec.ofNat 5 x))
  | 284 => some (.len284 (BitVec.ofNat 5 x))
  | 285 => some .len285
  | 286 => some .rsv286
  | 287 => some .rsv287
  | _ => none

/-- The distance half of symbol `t` with extra value `x` (R99). -/
def mkDist (t x : Nat) : Option Instr :=
  match t with
  | 0 => some .dist0
  | 1 => some .dist1
  | 2 => some .dist2
  | 3 => some .dist3
  | 4 => some (.dist4 (BitVec.ofNat 1 x))
  | 5 => some (.dist5 (BitVec.ofNat 1 x))
  | 6 => some (.dist6 (BitVec.ofNat 2 x))
  | 7 => some (.dist7 (BitVec.ofNat 2 x))
  | 8 => some (.dist8 (BitVec.ofNat 3 x))
  | 9 => some (.dist9 (BitVec.ofNat 3 x))
  | 10 => some (.dist10 (BitVec.ofNat 4 x))
  | 11 => some (.dist11 (BitVec.ofNat 4 x))
  | 12 => some (.dist12 (BitVec.ofNat 5 x))
  | 13 => some (.dist13 (BitVec.ofNat 5 x))
  | 14 => some (.dist14 (BitVec.ofNat 6 x))
  | 15 => some (.dist15 (BitVec.ofNat 6 x))
  | 16 => some (.dist16 (BitVec.ofNat 7 x))
  | 17 => some (.dist17 (BitVec.ofNat 7 x))
  | 18 => some (.dist18 (BitVec.ofNat 8 x))
  | 19 => some (.dist19 (BitVec.ofNat 8 x))
  | 20 => some (.dist20 (BitVec.ofNat 9 x))
  | 21 => some (.dist21 (BitVec.ofNat 9 x))
  | 22 => some (.dist22 (BitVec.ofNat 10 x))
  | 23 => some (.dist23 (BitVec.ofNat 10 x))
  | 24 => some (.dist24 (BitVec.ofNat 11 x))
  | 25 => some (.dist25 (BitVec.ofNat 11 x))
  | 26 => some (.dist26 (BitVec.ofNat 12 x))
  | 27 => some (.dist27 (BitVec.ofNat 12 x))
  | 28 => some (.dist28 (BitVec.ofNat 13 x))
  | 29 => some (.dist29 (BitVec.ofNat 13 x))
  | 30 => some .rsv30
  | 31 => some .rsv31
  | _ => none

/-- The scanline element of a filter-type byte (R107). -/
def mkRow (ft : Nat) : Instr :=
  match ft with
  | 0 => .ft0
  | 1 => .ft1
  | 2 => .ft2
  | 3 => .ft3
  | 4 => .ft4
  | _ => .ftInvalid (BitVec.ofNat 8 ft)

/-! ### The decoder -/

/-- Read an element that is a Huffman code and its extra bits; `short` is the rejection when the extra bits are missing. -/
def decodeCoded (lens : List CodeLen) (extra : Nat → Nat) (mk : Nat → Nat → Option Instr) (short : Nat → Reject)
    (bits : List Bool) : Except Reject (Instr × List Bool) :=
  match huff lens bits with
  | .error r => .error r
  | .ok (s, bits) =>
    match takeBits (extra s) bits with
    | none => .error (short s)
    | some (x, bits) =>
      match mk s x with
      | some i => .ok (i, bits)
      | none => .error .noSymbol

/-- Read `n` 3-bit fields (R95). -/
def takeLens : Nat → List Bool → Option (List (BitVec 3) × List Bool)
  | 0, bits => some ([], bits)
  | n + 1, bits =>
    match takeBits 3 bits with
    | none => none
    | some (v, bits) =>
      match takeLens n bits with
      | none => none
      | some (ls, bits) => some (BitVec.ofNat 3 v :: ls, bits)

/-- Read a 32-bit value stored most significant byte first (R101, 20_memory.md R63). -/
def takeBigEndian (bits : List Bool) : Option (Word × List Bool) := do
  let (t0, bits) ← takeBits 8 bits
  let (t1, bits) ← takeBits 8 bits
  let (t2, bits) ← takeBits 8 bits
  let (t3, bits) ← takeBits 8 bits
  some (BitVec.ofNat 32 (t0 * 2 ^ 24 + t1 * 2 ^ 16 + t2 * 2 ^ 8 + t3), bits)

/-- The block header of a 3-bit field (R92). -/
def mkBlock (v : Nat) : Instr :=
  let bfinal := v % 2 == 1
  match v / 2 % 4 with
  | 0 => .blkStored bfinal
  | 1 => .blkFixed bfinal
  | 2 => .blkDyn bfinal
  | _ => .blkRsv bfinal

/-- The command a write of `v` to register `n` of unit `u` is (R108, 10_state.md R44); `RESET` wins over `START` and
`INIT` when both bits are 1 (log entry 9). -/
def mkCommand (u : UnitId) (n v : Nat) : Option Instr :=
  match u, n with
  | .inf, 0 => if v / 2 % 2 = 1 then some .infReset else if v % 2 = 1 then some .infStart else none
  | .dfl, 0 => if v / 2 % 2 = 1 then some .defReset else if v % 2 = 1 then some .defStart else none
  | .crc, 0 => if v / 2 % 2 = 1 then some .crcReset else if v % 2 = 1 then some .init else none
  | .crc, 4 => some (.byte (BitVec.ofNat 8 v))
  | .crc, 5 => some (.check (BitVec.ofNat 32 v))
  | _, _ => none

/-- A missing field is the end of the input (R66). -/
def orEnd {α : Type} : Option α → Except Reject α
  | some a => .ok a
  | none => .error .endOfInput

/-- The decoder: the instruction at the head of `bits` in context `c`, and the bits after it, or the reason there is
none (R91 to R101, R107, R108). -/
def decode (c : Ctx) (bits : List Bool) : Except Reject (Instr × List Bool) :=
  match c with
  | .zhdr => orEnd do
      let (cmf, bits) ← takeBits 8 bits
      let (flg, bits) ← takeBits 8 bits
      some (.zhdr (BitVec.ofNat 8 cmf) (BitVec.ofNat 8 flg), bits)
  | .blkhdr => orEnd do
      let (v, bits) ← takeBits 3 bits
      some (mkBlock v, bits)
  | .stored pad => orEnd do
      let (len, bits) ← takeBits 16 (bits.drop pad)
      let (nlen, bits) ← takeBits 16 bits
      some (.stored (BitVec.ofNat 16 len) (BitVec.ofNat 16 nlen), bits)
  | .dynhdr => orEnd do
      let (hlit, bits) ← takeBits 5 bits
      let (hdist, bits) ← takeBits 5 bits
      let (hclen, bits) ← takeBits 4 bits
      some (.dynhdr (BitVec.ofNat 5 hlit) (BitVec.ofNat 5 hdist) (BitVec.ofNat 4 hclen), bits)
  | .dynclen ncode => orEnd do
      let (lens, bits) ← takeLens ncode bits
      some (.clens lens, bits)
  | .dynlens cl first =>
      decodeCoded cl clExtra mkCl (fun s => if s = 16 ∧ first then .noPrevious else .endOfInput) bits
  | .tables => .ok (.tables, bits)
  | .sym ll => decodeCoded ll lenExtra mkSym (fun _ => .endOfInput) bits
  | .dist d => decodeCoded d distExtra mkDist (fun _ => .endOfInput) bits
  | .trailer pad => orEnd do
      let (t, bits) ← takeBigEndian (bits.drop pad)
      some (.ztrailer t, bits)
  | .row => orEnd do
      let (ft, bits) ← takeBits 8 bits
      some (mkRow ft, bits)
  | .defEnd => .ok (.defEnd, bits)
  | .reg u n =>
      match takeBits 32 bits with
      | none => .error .endOfInput
      | some (v, bits) =>
        match mkCommand u n v with
        | some i => .ok (i, bits)
        | none => .error .notCommand

/-! ### The encoder -/

/-- The three alphabets of Huffman codes (R96, R97, R99). -/
inductive Alphabet
  | codeLength | literalLength | distance
  deriving DecidableEq, Repr

/-- A Huffman-coded element: its alphabet, symbol, number of extra bits and extra value. -/
structure Coded where
  alphabet : Alphabet
  sym : Nat
  xbits : Nat
  x : Nat
  deriving DecidableEq, Repr

/-- The Huffman-coded elements and their parts (R96 to R99); `none` for every other instruction. -/
def Instr.coded : Instr → Option Coded
  | .cl0 => some ⟨.codeLength, 0, 0, 0⟩
  | .cl1 => some ⟨.codeLength, 1, 0, 0⟩
  | .cl2 => some ⟨.codeLength, 2, 0, 0⟩
  | .cl3 => some ⟨.codeLength, 3, 0, 0⟩
  | .cl4 => some ⟨.codeLength, 4, 0, 0⟩
  | .cl5 => some ⟨.codeLength, 5, 0, 0⟩
  | .cl6 => some ⟨.codeLength, 6, 0, 0⟩
  | .cl7 => some ⟨.codeLength, 7, 0, 0⟩
  | .cl8 => some ⟨.codeLength, 8, 0, 0⟩
  | .cl9 => some ⟨.codeLength, 9, 0, 0⟩
  | .cl10 => some ⟨.codeLength, 10, 0, 0⟩
  | .cl11 => some ⟨.codeLength, 11, 0, 0⟩
  | .cl12 => some ⟨.codeLength, 12, 0, 0⟩
  | .cl13 => some ⟨.codeLength, 13, 0, 0⟩
  | .cl14 => some ⟨.codeLength, 14, 0, 0⟩
  | .cl15 => some ⟨.codeLength, 15, 0, 0⟩
  | .cl16 x => some ⟨.codeLength, 16, 2, x.toNat⟩
  | .cl17 x => some ⟨.codeLength, 17, 3, x.toNat⟩
  | .cl18 x => some ⟨.codeLength, 18, 7, x.toNat⟩
  | .lit v => some ⟨.literalLength, v.toNat, 0, 0⟩
  | .eob => some ⟨.literalLength, 256, 0, 0⟩
  | .len257 => some ⟨.literalLength, 257, 0, 0⟩
  | .len258 => some ⟨.literalLength, 258, 0, 0⟩
  | .len259 => some ⟨.literalLength, 259, 0, 0⟩
  | .len260 => some ⟨.literalLength, 260, 0, 0⟩
  | .len261 => some ⟨.literalLength, 261, 0, 0⟩
  | .len262 => some ⟨.literalLength, 262, 0, 0⟩
  | .len263 => some ⟨.literalLength, 263, 0, 0⟩
  | .len264 => some ⟨.literalLength, 264, 0, 0⟩
  | .len265 x => some ⟨.literalLength, 265, 1, x.toNat⟩
  | .len266 x => some ⟨.literalLength, 266, 1, x.toNat⟩
  | .len267 x => some ⟨.literalLength, 267, 1, x.toNat⟩
  | .len268 x => some ⟨.literalLength, 268, 1, x.toNat⟩
  | .len269 x => some ⟨.literalLength, 269, 2, x.toNat⟩
  | .len270 x => some ⟨.literalLength, 270, 2, x.toNat⟩
  | .len271 x => some ⟨.literalLength, 271, 2, x.toNat⟩
  | .len272 x => some ⟨.literalLength, 272, 2, x.toNat⟩
  | .len273 x => some ⟨.literalLength, 273, 3, x.toNat⟩
  | .len274 x => some ⟨.literalLength, 274, 3, x.toNat⟩
  | .len275 x => some ⟨.literalLength, 275, 3, x.toNat⟩
  | .len276 x => some ⟨.literalLength, 276, 3, x.toNat⟩
  | .len277 x => some ⟨.literalLength, 277, 4, x.toNat⟩
  | .len278 x => some ⟨.literalLength, 278, 4, x.toNat⟩
  | .len279 x => some ⟨.literalLength, 279, 4, x.toNat⟩
  | .len280 x => some ⟨.literalLength, 280, 4, x.toNat⟩
  | .len281 x => some ⟨.literalLength, 281, 5, x.toNat⟩
  | .len282 x => some ⟨.literalLength, 282, 5, x.toNat⟩
  | .len283 x => some ⟨.literalLength, 283, 5, x.toNat⟩
  | .len284 x => some ⟨.literalLength, 284, 5, x.toNat⟩
  | .len285 => some ⟨.literalLength, 285, 0, 0⟩
  | .rsv286 => some ⟨.literalLength, 286, 0, 0⟩
  | .rsv287 => some ⟨.literalLength, 287, 0, 0⟩
  | .dist0 => some ⟨.distance, 0, 0, 0⟩
  | .dist1 => some ⟨.distance, 1, 0, 0⟩
  | .dist2 => some ⟨.distance, 2, 0, 0⟩
  | .dist3 => some ⟨.distance, 3, 0, 0⟩
  | .dist4 x => some ⟨.distance, 4, 1, x.toNat⟩
  | .dist5 x => some ⟨.distance, 5, 1, x.toNat⟩
  | .dist6 x => some ⟨.distance, 6, 2, x.toNat⟩
  | .dist7 x => some ⟨.distance, 7, 2, x.toNat⟩
  | .dist8 x => some ⟨.distance, 8, 3, x.toNat⟩
  | .dist9 x => some ⟨.distance, 9, 3, x.toNat⟩
  | .dist10 x => some ⟨.distance, 10, 4, x.toNat⟩
  | .dist11 x => some ⟨.distance, 11, 4, x.toNat⟩
  | .dist12 x => some ⟨.distance, 12, 5, x.toNat⟩
  | .dist13 x => some ⟨.distance, 13, 5, x.toNat⟩
  | .dist14 x => some ⟨.distance, 14, 6, x.toNat⟩
  | .dist15 x => some ⟨.distance, 15, 6, x.toNat⟩
  | .dist16 x => some ⟨.distance, 16, 7, x.toNat⟩
  | .dist17 x => some ⟨.distance, 17, 7, x.toNat⟩
  | .dist18 x => some ⟨.distance, 18, 8, x.toNat⟩
  | .dist19 x => some ⟨.distance, 19, 8, x.toNat⟩
  | .dist20 x => some ⟨.distance, 20, 9, x.toNat⟩
  | .dist21 x => some ⟨.distance, 21, 9, x.toNat⟩
  | .dist22 x => some ⟨.distance, 22, 10, x.toNat⟩
  | .dist23 x => some ⟨.distance, 23, 10, x.toNat⟩
  | .dist24 x => some ⟨.distance, 24, 11, x.toNat⟩
  | .dist25 x => some ⟨.distance, 25, 11, x.toNat⟩
  | .dist26 x => some ⟨.distance, 26, 12, x.toNat⟩
  | .dist27 x => some ⟨.distance, 27, 12, x.toNat⟩
  | .dist28 x => some ⟨.distance, 28, 13, x.toNat⟩
  | .dist29 x => some ⟨.distance, 29, 13, x.toNat⟩
  | .rsv30 => some ⟨.distance, 30, 0, 0⟩
  | .rsv31 => some ⟨.distance, 31, 0, 0⟩
  | .zhdr _ _ | .blkStored _ | .blkFixed _ | .blkDyn _ | .blkRsv _ | .stored _ _ | .dynhdr _ _ _ | .clens _ => none
  | .tables | .ztrailer _ | .ft0 | .ft1 | .ft2 | .ft3 | .ft4 | .ftInvalid _ | .defEnd => none
  | .init | .byte _ | .check _ | .infStart | .defStart | .infReset | .crcReset | .defReset => none

/-- The code lengths a context puts in force. -/
def Ctx.lens : Ctx → List CodeLen
  | .dynlens cl _ => cl
  | .sym ll => ll
  | .dist d => d
  | .zhdr | .blkhdr | .stored _ | .dynhdr | .dynclen _ | .tables | .trailer _ | .row | .defEnd | .reg _ _ => []

/-- The alphabet a context decodes, if it decodes a Huffman code. -/
def Ctx.alphabet : Ctx → Option Alphabet
  | .dynlens _ _ => some .codeLength
  | .sym _ => some .literalLength
  | .dist _ => some .distance
  | .zhdr | .blkhdr | .stored _ | .dynhdr | .dynclen _ | .tables | .trailer _ | .row | .defEnd | .reg _ _ => none

/-- The pad bits before the element of a context (R64). -/
def Ctx.pad : Ctx → Nat
  | .stored pad | .trailer pad => pad
  | .zhdr | .blkhdr | .dynhdr | .dynclen _ | .dynlens _ _ | .tables | .sym _ | .dist _ | .row | .defEnd | .reg _ _ => 0

/-- The encoder: the bits of an instruction in context `c`, pad bits 0; a register command is the 32-bit value written. -/
def encode (c : Ctx) (i : Instr) : List Bool :=
  match i with
  | .zhdr cmf flg => fieldBits 8 cmf.toNat ++ fieldBits 8 flg.toNat
  | .blkStored bfinal => fieldBits 1 bfinal.toNat ++ fieldBits 2 0
  | .blkFixed bfinal => fieldBits 1 bfinal.toNat ++ fieldBits 2 1
  | .blkDyn bfinal => fieldBits 1 bfinal.toNat ++ fieldBits 2 2
  | .blkRsv bfinal => fieldBits 1 bfinal.toNat ++ fieldBits 2 3
  | .stored len nlen => List.replicate c.pad false ++ fieldBits 16 len.toNat ++ fieldBits 16 nlen.toNat
  | .dynhdr hlit hdist hclen => fieldBits 5 hlit.toNat ++ fieldBits 5 hdist.toNat ++ fieldBits 4 hclen.toNat
  | .clens lens => lens.flatMap fun l => fieldBits 3 l.toNat
  | .ztrailer t => List.replicate c.pad false ++ fieldBits 8 (t.toNat / 2 ^ 24) ++ fieldBits 8 (t.toNat / 2 ^ 16)
      ++ fieldBits 8 (t.toNat / 2 ^ 8) ++ fieldBits 8 t.toNat
  | .tables | .defEnd => []
  | .ft0 => fieldBits 8 0
  | .ft1 => fieldBits 8 1
  | .ft2 => fieldBits 8 2
  | .ft3 => fieldBits 8 3
  | .ft4 => fieldBits 8 4
  | .ftInvalid ft => fieldBits 8 ft.toNat
  | .init | .infStart | .defStart => fieldBits 32 1
  | .infReset | .crcReset | .defReset => fieldBits 32 2
  | .byte b => fieldBits 32 b.toNat
  | .check e => fieldBits 32 e.toNat
  | .cl0 | .cl1 | .cl2 | .cl3 | .cl4 | .cl5 | .cl6 | .cl7 | .cl8 | .cl9 | .cl10 | .cl11
  | .cl12 | .cl13 | .cl14 | .cl15 | .cl16 _ | .cl17 _ | .cl18 _ | .lit _ | .eob | .len257 | .len258 | .len259
  | .len260 | .len261 | .len262 | .len263 | .len264 | .len265 _ | .len266 _ | .len267 _ | .len268 _ | .len269 _ | .len270 _ | .len271 _
  | .len272 _ | .len273 _ | .len274 _ | .len275 _ | .len276 _ | .len277 _ | .len278 _ | .len279 _ | .len280 _ | .len281 _ | .len282 _ | .len283 _
  | .len284 _ | .len285 | .rsv286 | .rsv287 | .dist0 | .dist1 | .dist2 | .dist3 | .dist4 _ | .dist5 _ | .dist6 _ | .dist7 _
  | .dist8 _ | .dist9 _ | .dist10 _ | .dist11 _ | .dist12 _ | .dist13 _ | .dist14 _ | .dist15 _ | .dist16 _ | .dist17 _ | .dist18 _ | .dist19 _
  | .dist20 _ | .dist21 _ | .dist22 _ | .dist23 _ | .dist24 _ | .dist25 _ | .dist26 _ | .dist27 _ | .dist28 _ | .dist29 _ | .rsv30 | .rsv31 =>
    match i.coded with
    | some k => codeBits c.lens k.sym ++ fieldBits k.xbits k.x
    | none => []

/-- Whether instruction `i` can stand in context `c`: it is an element of the context's kind and, for a Huffman-coded one,
its symbol has a code (R103). -/
def encodable (c : Ctx) (i : Instr) : Bool :=
  match c with
  | .zhdr => match i with | .zhdr _ _ => true | _ => false
  | .blkhdr => match i with | .blkStored _ | .blkFixed _ | .blkDyn _ | .blkRsv _ => true | _ => false
  | .stored _ => match i with | .stored _ _ => true | _ => false
  | .dynhdr => match i with | .dynhdr _ _ _ => true | _ => false
  | .dynclen ncode => match i with | .clens lens => lens.length == ncode | _ => false
  | .dynlens _ _ | .sym _ | .dist _ =>
      match i.coded with
      | some k => c.alphabet == some k.alphabet && c.lens.getD k.sym 0 != 0
      | none => false
  | .tables => i == .tables
  | .trailer _ => match i with | .ztrailer _ => true | _ => false
  | .row => match i with | .ft0 | .ft1 | .ft2 | .ft3 | .ft4 | .ftInvalid _ => true | _ => false
  | .defEnd => i == .defEnd
  | .reg .inf 0 => i == .infStart || i == .infReset
  | .reg .dfl 0 => i == .defStart || i == .defReset
  | .reg .crc 0 => i == .init || i == .crcReset
  | .reg .crc 4 => match i with | .byte _ => true | _ => false
  | .reg .crc 5 => match i with | .check _ => true | _ => false
  | .reg _ _ => false

/-! ### The opcode table's words (log entry 10) -/

/-- The context a word of the opcode table is read in. The table gives its rows no common opcode: one number matches rows of
several phases and registers (R8). Of the rows a word of `nbits` bits matches, the one whose mask fixes the most bits is
taken: an 8-bit word is a filter-type byte when it is 0 to 4 and a block header otherwise; a 16-bit word is a zlib header
when its fixed bits say so and a dynamic-block header otherwise; a wider word is a write to `CRC_CTRL`. -/
def tableCtx (nbits w : Nat) : Ctx :=
  if 16 < nbits then .reg .crc 0
  else if 8 < nbits then (if w &&& 0x208F = 8 then .zhdr else .dynhdr)
  else if w % 256 ≤ 4 then .row
  else .blkhdr

/-- The instruction the decoder reads from a word of the opcode table, the bits above `nbits` being 0. -/
def decodeTableWord (nbits w : Nat) : Option Instr :=
  match decode (tableCtx nbits w) (fieldBits nbits w ++ List.replicate 64 false) with
  | .ok (i, _) => some i
  | .error _ => none

end Sys2Proof
end

