-- ==== Sys2Proof/Machine/State.lean ====
section
/-! DEFINITION. The state of the block as plain data (10_state.md), the reasons a step can stop, and the state after reset.
A field marked MODEL's own is no state of the spec; its log entry is named. -/

namespace Sys2Proof.Machine

open Sys2Proof

/-- INF's `phase` (10_state.md R22). The reserved values 11 to 15 have no constructor. -/
inductive Phase
  | idle | zhdr | blkhdr | stored | dynhdr | dynclen | dynlens | sym | trailer | done | fault
  deriving DecidableEq, Repr

/-- CRC's `cstate` (R27). -/
inductive CState
  | idle | accum | matched | fault
  deriving DecidableEq, Repr

/-- DEF's `dphase` (R28). -/
inductive DPhase
  | idle | row | done | fault
  deriving DecidableEq, Repr

/-- The fault kinds (60_exceptions.md R270): those the block raises and those only the host raises, which share the
numbering. -/
inductive Kind
  | invalidSignature | unexpectedEof | chunkChecksumMismatch | missingHeader | invalidDimensions
  | unsupportedCompression | unsupportedFilterMethod | unsupportedInterlaceMethod
  | invalidBitDepthForColorType | unexpectedPalette | outOfOrderImageData | unsupportedCriticalChunk
  | missingEnd | dataAfterEnd | invalidCompressedHeader | invalidDeflateStream
  | decompressionChecksumMismatch | incompleteImageData | invalidFilterType | truncatedChunk
  | excessImageData | trailingCompressedData | configError
  deriving DecidableEq, Repr

/-- The four status flags of INF and of DEF (R26, R28). -/
structure Flags where
  busy : Bool
  done : Bool
  fault : Bool
  outValid : Bool
  deriving DecidableEq, Repr

/-- A byte-addressed space: the bytes written, by address, addresses strictly rising. -/
abbrev Memory := List Host.Cell

/-- INF: working registers (R21), length arrays (R23), flags (R26), register file (R41) and spaces (R50). -/
structure Inf where
  phase : Phase
  bitpos : Nat
  elemStart : Nat
  bfinal : Bool
  btype : BitVec 2
  nlen : Nat
  ndist : Nat
  ncode : Nat
  lidx : Nat
  outCount : Nat
  s1 : BitVec 16
  s2 : BitVec 16
  clLen : List CodeLen
  llLen : List CodeLen
  dLen : List CodeLen
  flags : Flags
  /-- `INF_ERR.CODE`. -/
  err : BitVec 8
  /-- `INF_ERR_INFO`. -/
  errInfo : Nat
  /-- `INF_IN_LEN`. -/
  inLen : Nat
  /-- `INF_EXPECT_LEN`. -/
  expectLen : Nat
  /-- The space `IN`. -/
  input : Memory
  /-- The space `OUT`. -/
  out : Memory
  /-- The space `WIN`. -/
  win : Memory
  /-- MODEL's own (log entry 2): the match length that the length half of a match hands to its distance half within one
  step; `none` between steps. -/
  matchLen : Option Nat
  /-- MODEL's own (log entry 5): the number of resets so far, which the unspecified buffer contents depend on. -/
  epoch : Nat
  deriving DecidableEq, Repr

/-- CRC: working registers (R27) and register file (R42). -/
structure Crc where
  /-- `crc`, the running remainder before the final complement. -/
  reg : Word
  cnt : Nat
  tag : Word
  cstate : CState
  active : Bool
  matched : Bool
  fault : Bool
  /-- `CRC_ERR.CODE`. -/
  err : BitVec 8
  /-- `CRC_ERR_INFO`. -/
  errInfo : Word
  deriving DecidableEq, Repr

/-- DEF: working registers (R28), row buffers (R30), register file (R43) and spaces (R50). -/
structure Dfl where
  dphase : DPhase
  ipos : Nat
  opos : Nat
  pass : Nat
  row : Nat
  ftype : Byte
  elemStart : Nat
  flags : Flags
  /-- `DEF_ERR.CODE`. -/
  err : BitVec 8
  /-- `DEF_ERR_INFO`. -/
  errInfo : Nat
  /-- `DEF_IN_LEN`. -/
  inLen : Nat
  /-- `DEF_BPP`. -/
  bpp : BitVec 4
  /-- `DEF_NPASS`. -/
  npass : BitVec 4
  /-- `DEF_ROWBYTES[0..6]`. -/
  rowBytes : List Nat
  /-- `DEF_ROWS[0..6]`. -/
  rows : List Nat
  /-- The previous reconstructed row; a byte not listed is 0. -/
  prev : Memory
  /-- The row under reconstruction; a byte not listed is 0. -/
  cur : Memory
  /-- The space `DIN`. -/
  din : Memory
  /-- The space `RAW`. -/
  raw : Memory
  /-- MODEL's own (log entry 5), as in INF. -/
  epoch : Nat
  deriving DecidableEq, Repr

/-- What the host does at its turn (10_state.md R40, R50; 20_memory.md R79; 70_reset_and_hazards.md R310). -/
inductive HostOp
  /-- Write `v` to register `n` of unit `u`. -/
  | write (u : UnitId) (n v : Nat)
  /-- Read register `n` of unit `u` into `hostData`. -/
  | read (u : UnitId) (n : Nat)
  /-- Put a byte into `IN`. -/
  | fillIn (a : Nat) (b : Byte)
  /-- Put a byte into `DIN`. -/
  | fillDin (a : Nat) (b : Byte)
  /-- Read a byte of `OUT` into `hostData`. -/
  | takeOut (a : Nat)
  /-- Read a byte of `RAW` into `hostData`. -/
  | takeRaw (a : Nat)
  /-- Make INF's valid output DEF's input (R79, R324). -/
  | handoff
  /-- Power-on reset of all three units (R310). -/
  | powerOn
  deriving DecidableEq, Repr

/-- Whose turn is next (10_state.md R20): a unit's, or the host's with what it does. -/
inductive Event
  | unit (u : UnitId)
  | host (op : HostOp)
  deriving DecidableEq, Repr

/-- The whole machine. -/
structure State where
  inf : Inf
  crc : Crc
  dfl : Dfl
  /-- The open parameters (00_scope.md R7); no step writes them (log entry 7). -/
  params : Params
  /-- MODEL's own (log entry 1): the turns to come, the next one first. -/
  agenda : List Event
  /-- MODEL's own (log entry 6): what the host's last read returned. -/
  hostData : Nat
  /-- MODEL's own (log entry 1): the number of choices made between two busy units. -/
  tick : Nat
  /-- MODEL's own (log entry 6): the number of host reads of unspecified bytes. -/
  draws : Nat
  deriving DecidableEq, Repr

/-- Why the machine stops outside every rule. The faults of the spec (R270) are no reasons of this type: the machine takes
them as next states (R280). -/
inductive Fault
  /-- Raised by DEF's turn when it is busy with `pass > NPASS`: no rule of 44_defilter.md applies and no run gets there
  (93_implementation_defined.md U11; log entry 14). Safe: the model stops where the spec says nothing. -/
  | noRule
  deriving DecidableEq, Repr

/-- What the model gives no meaning to. -/
inductive Refusal
  /-- Raised by an arm of `exec` whose instruction has no meaning yet; no arm is so. Safe. -/
  | notModelled (mnemonic : String)
  /-- Raised when the host writes `IN` or `DIN`, or reads `OUT` or `RAW`, while the unit is busy
  (70_reset_and_hazards.md R321, 93_implementation_defined.md U15). Safe: the spec itself refuses such a run. -/
  | hostTouchedBusyBuffer
  /-- Raised when the host hands `OUT` to DEF while INF has no valid output (20_memory.md R79). Safe: a broken host duty. -/
  | handoffWithoutOutput
  /-- Raised when a counter outgrows a finite `CNT_W` (R24, 93_implementation_defined.md U21). Safe: outside the spec. -/
  | counterOutgrown
  deriving DecidableEq, Repr

/-- No flag set. -/
def Flags.clear : Flags := ⟨false, false, false, false⟩

/-- INF after a reset (R55, R310), the `epoch`-th one. -/
def Inf.reset (epoch : Nat) : Inf where
  phase := .idle
  bitpos := 0
  elemStart := 0
  bfinal := false
  btype := 0
  nlen := 0
  ndist := 0
  ncode := 0
  lidx := 0
  outCount := 0
  s1 := 1
  s2 := 0
  clLen := List.replicate 19 0
  llLen := List.replicate 288 0
  dLen := List.replicate 32 0
  flags := .clear
  err := 0
  errInfo := 0
  inLen := 0
  expectLen := 0
  input := []
  out := []
  win := []
  matchLen := none
  epoch := epoch

/-- CRC after a reset (R55, R310). -/
def Crc.reset : Crc where
  reg := 0xFFFFFFFF
  cnt := 0
  tag := 0
  cstate := .idle
  active := false
  matched := false
  fault := false
  err := 0
  errInfo := 0

/-- DEF after a reset (R55, R310), the `epoch`-th one. -/
def Dfl.reset (epoch : Nat) : Dfl where
  dphase := .idle
  ipos := 0
  opos := 0
  pass := 0
  row := 0
  ftype := 0
  elemStart := 0
  flags := .clear
  err := 0
  errInfo := 0
  inLen := 0
  bpp := 0
  npass := 0
  rowBytes := List.replicate 7 0
  rows := List.replicate 7 0
  prev := []
  cur := []
  din := []
  raw := []
  epoch := epoch

/-- The machine right after power-on reset (R55, R310): the three units reset, the open parameters at their defaults. -/
def State.reset : State where
  inf := Inf.reset 0
  crc := Crc.reset
  dfl := Dfl.reset 0
  params := Params.standard
  agenda := []
  hostData := 0
  tick := 0
  draws := 0

/-- The same machine with another INF: a step of INF writes nothing else (R20). -/
def State.onInf (s : State) (f : Inf → Inf) : State := { s with inf := f s.inf }

/-- The same machine with another CRC. -/
def State.onCrc (s : State) (f : Crc → Crc) : State := { s with crc := f s.crc }

/-- The same machine with another DEF. -/
def State.onDfl (s : State) (f : Dfl → Dfl) : State := { s with dfl := f s.dfl }

end Sys2Proof.Machine
end

