-- ==== Sys2Proof/Machine/Flags.lean ====
section
/-! DEFINITION. The status flags (10_state.md R26 to R28), the numbers of the phases and fault kinds, and the status words. -/

namespace Sys2Proof.Machine

open Sys2Proof

/-- The flags of a unit that `START` has set running (R56). -/
def Flags.started : Flags := ⟨true, false, false, false⟩

/-- The flags of a unit whose run ended without fault (40_zlib_container.md R131, 44_defilter.md R251). -/
def Flags.ended : Flags := ⟨false, true, false, true⟩

/-- The flags of a unit in `FAULT` (60_exceptions.md R280). -/
def Flags.faulted : Flags := ⟨false, false, true, false⟩

/-- The number of a `phase` value (R22). -/
def Phase.number : Phase → Nat
  | .idle => 0
  | .zhdr => 1
  | .blkhdr => 2
  | .stored => 3
  | .dynhdr => 4
  | .dynclen => 5
  | .dynlens => 6
  | .sym => 7
  | .trailer => 8
  | .done => 9
  | .fault => 10

/-- The code of a fault kind (60_exceptions.md R270). -/
def Kind.code : Kind → BitVec 8
  | .invalidSignature => 1
  | .unexpectedEof => 2
  | .chunkChecksumMismatch => 3
  | .missingHeader => 4
  | .invalidDimensions => 5
  | .unsupportedCompression => 6
  | .unsupportedFilterMethod => 7
  | .unsupportedInterlaceMethod => 8
  | .invalidBitDepthForColorType => 9
  | .unexpectedPalette => 10
  | .outOfOrderImageData => 11
  | .unsupportedCriticalChunk => 12
  | .missingEnd => 13
  | .dataAfterEnd => 14
  | .invalidCompressedHeader => 15
  | .invalidDeflateStream => 16
  | .decompressionChecksumMismatch => 17
  | .incompleteImageData => 18
  | .invalidFilterType => 19
  | .truncatedChunk => 20
  | .excessImageData => 32
  | .trailingCompressedData => 33
  | .configError => 34

/-- Bits 3:0 of `INF_STATUS` and `DEF_STATUS` (R41, R43). -/
def Flags.bits (f : Flags) : Nat := f.busy.toNat + 2 * f.done.toNat + 4 * f.fault.toNat + 8 * f.outValid.toNat

/-- `INF_STATUS` (R41). -/
def Inf.status (u : Inf) : Nat :=
  u.flags.bits + 16 * u.phase.number + 256 * u.bfinal.toNat + 512 * u.btype.toNat

/-- `CRC_STATUS` (R42). -/
def Crc.status (u : Crc) : Nat := u.active.toNat + 2 * u.matched.toNat + 4 * u.fault.toNat

/-- `DEF_STATUS` (R43). -/
def Dfl.status (u : Dfl) : Nat := u.flags.bits + 16 * (u.pass % 8)

end Sys2Proof.Machine
end

