-- ==== Sys2Proof/Machine/Operands.lean ====
section
/-! DEFINITION. The operands of the instructions (30_encoding.md R109) and the fixed numbers they are made with (00_scope.md R6). -/

namespace Sys2Proof.Machine

open Sys2Proof

/-! ### Fixed parameters (R6) -/

/-- `WSIZE`, the window size. -/
def wsize : Nat := 32768

/-- `ADLER_MOD`, the modulus of the trailing checksum. -/
def adlerMod : Nat := 65521

/-- `CRC_POLY`, the reflected CRC-32 polynomial. -/
def crcPoly : Word := 0xEDB88320

/-- `MAXLCODES`: the most literal/length lengths a dynamic block may announce (41_blocks_and_tables.md R156). -/
def maxLCodes : Nat := 286

/-- `MAXDCODES`: the most distance lengths a dynamic block may announce (R156). -/
def maxDCodes : Nat := 30

/-- `MAXPASS`: the most sub-images (44_defilter.md R241). -/
def maxPass : Nat := 7

/-- `MAXBPP`: the largest filter byte distance (R241). -/
def maxBpp : Nat := 8

/-! ### The zlib header (R91) -/

/-- `CM`, bits 3:0 of `CMF`. -/
def zlibMethod (cmf : Byte) : Nat := cmf.toNat % 16

/-- `CINFO`, bits 7:4 of `CMF`. -/
def zlibInfo (cmf : Byte) : Nat := cmf.toNat / 16

/-- The header as a big-endian number, `CMF * 256 + FLG` (20_memory.md R63). -/
def zlibHeader (cmf flg : Byte) : Nat := cmf.toNat * 256 + flg.toNat

/-- `FDICT`, bit 5 of `FLG`. -/
def zlibDict (flg : Byte) : Bool := flg.getLsbD 5

/-! ### The dynamic-block header and the code-length lists (R94 to R96) -/

/-- `nlen = HLIT + 257`. -/
def litLenCount (hlit : BitVec 5) : Nat := hlit.toNat + 257

/-- `ndist = HDIST + 1`. -/
def distCount (hdist : BitVec 5) : Nat := hdist.toNat + 1

/-- `ncode = HCLEN + 4`. -/
def codeLenCount (hclen : BitVec 4) : Nat := hclen.toNat + 4

/-- `CLORD`: the symbol each transmitted code-length-code length belongs to (R95). -/
def clOrder : List Nat := [16, 17, 18, 0, 8, 7, 9, 6, 10, 5, 11, 4, 12, 3, 13, 2, 14, 1, 15]

/-- The code-length-code lengths after the transmitted ones are put in their places (R95, R157). -/
def placeLens (cl : List CodeLen) (lens : List (BitVec 3)) : List CodeLen :=
  (clOrder.zip lens).foldl (fun cl p => cl.set p.1 (p.2.setWidth 4)) cl

/-- The base of the repeat count of `CL16`, `CL17` and `CL18` (R96). -/
def clBase : Nat → Nat
  | 16 => 3
  | 17 => 3
  | 18 => 11
  | _ => 0

/-! ### Lengths and distances (R98, R99) -/

/-- `LBASE`, for symbols 257 to 285 (R98). -/
def lenBase (s : Nat) : Nat :=
  [3, 4, 5, 6, 7, 8, 9, 10, 11, 13, 15, 17, 19, 23, 27, 31, 35, 43, 51, 59, 67, 83, 99, 115, 131, 163, 195, 227,
    258].getD (s - 257) 0

/-- `DBASE`, for symbols 0 to 29 (R99). -/
def distBase (t : Nat) : Nat :=
  [1, 2, 3, 4, 5, 7, 9, 13, 17, 25, 33, 49, 65, 97, 129, 193, 257, 385, 513, 769, 1025, 1537, 2049, 3073, 4097, 6145,
    8193, 12289, 16385, 24577].getD t 0

/-! ### The fixed code (R105) -/

/-- The fixed literal/length code lengths. -/
def fixedLlLen : List CodeLen :=
  List.replicate 144 8 ++ List.replicate 112 9 ++ List.replicate 24 7 ++ List.replicate 8 8

/-- The fixed distance code lengths. -/
def fixedDLen : List CodeLen := List.replicate 32 5

/-! ### Alignment (20_memory.md R67) -/

/-- `align()`: the first byte boundary at or after a bit position. -/
def alignUp (bitpos : Nat) : Nat := (bitpos + 7) / 8 * 8

/-- The number of bits `align()` discards. -/
def padBits (bitpos : Nat) : Nat := alignUp bitpos - bitpos

/-! ### Completeness policy (41_blocks_and_tables.md R163) -/

/-- Whether an incomplete distance set is permitted: never under `strict`; under `rfc` when it is empty, or holds exactly
one code and that has length 1. -/
def incompletePermitted (p : Policy) (d : List CodeLen) : Bool :=
  match p with
  | .strict => false
  | .rfc =>
    let used := d.filter fun l => l != 0
    used == [] || used == [1]

/-! ### Predictors (44_defilter.md R244 to R249) -/

/-- The Paeth predictor (R249), in signed integers. -/
def paeth (a b c : Nat) : Nat :=
  let p : Int := a + b - c
  let pa := (p - a).natAbs
  let pb := (p - b).natAbs
  let pc := (p - c).natAbs
  if pa ≤ pb ∧ pa ≤ pc then a else if pb ≤ pc then b else c

/-- `FT0` None (R244). -/
def predNone (_a _b _c : Nat) : Nat := 0

/-- `FT1` Sub (R245). -/
def predSub (a _b _c : Nat) : Nat := a

/-- `FT2` Up (R246). -/
def predUp (_a b _c : Nat) : Nat := b

/-- `FT3` Average (R247): the sum is halved without wrapping. -/
def predAverage (a b _c : Nat) : Nat := (a + b) / 2

/-- `pred(ftype, a, b, c)`. -/
def pred (ft a b c : Nat) : Nat :=
  match ft with
  | 0 => predNone a b c
  | 1 => predSub a b c
  | 2 => predUp a b c
  | 3 => predAverage a b c
  | _ => paeth a b c

/-! ### Checksums (40_zlib_container.md R132, 43_crc32.md R220) -/

/-- The new `s1` of `adler_update(b)`. -/
def adlerS1 (s1 : BitVec 16) (b : Byte) : BitVec 16 := BitVec.ofNat 16 ((s1.toNat + b.toNat) % adlerMod)

/-- The new `s2` of `adler_update(b)`, from the new `s1`. -/
def adlerS2 (s1 s2 : BitVec 16) (b : Byte) : BitVec 16 :=
  BitVec.ofNat 16 ((s2.toNat + (adlerS1 s1 b).toNat) % adlerMod)

/-- One shift step of `crc_byte`. -/
def crcShift (c : Word) : Word := if c.getLsbD 0 then (c >>> 1) ^^^ crcPoly else c >>> 1

/-- `n` shift steps. -/
def crcShifts : Nat → Word → Word
  | 0, c => c
  | n + 1, c => crcShifts n (crcShift c)

/-- `crc_byte(c, b)`. -/
def crcByte (c : Word) (b : Byte) : Word := crcShifts 8 (c ^^^ b.setWidth 32)

/-! ### Counter width (10_state.md R24) -/

/-- Whether a value fits a counter register. -/
def fitsWidth (p : Params) (v : Nat) : Bool :=
  match p.cntW with
  | none => true
  | some w => v < 2 ^ w

end Sys2Proof.Machine
end

