-- ==== Sys2Proof/Machine/Ops.lean ====
section
/-! DEFINITION. The operations the meanings share: memory, the input stream, taking a fault, a unit reset, output, the length
sequence, and the row loop of DEF. -/

namespace Sys2Proof.Machine

open Sys2Proof

/-! ### Memory (10_state.md R50)

`dflt` is what a byte that is not listed is known to be: `none` for the buffers, whose contents are unspecified until they
are written (R55), and `some 0` for the row buffers, which reset and a new sub-image clear (R55, 44_defilter.md R242). -/

/-- The byte listed at an address. -/
def Memory.find (m : Memory) (a : Nat) : Option Byte :=
  match m with
  | [] => none
  | (a', b) :: rest => if a = a' then some b else Memory.find rest a

/-- List a byte at an address, keeping the canonical form. -/
def Memory.write (dflt : Option Byte) (m : Memory) (a : Nat) (b : Byte) : Memory :=
  match m with
  | [] => if dflt = some b then [] else [(a, b)]
  | (a', b') :: rest =>
    if a < a' then (if dflt = some b then (a', b') :: rest else (a, b) :: (a', b') :: rest)
    else if a = a' then (if dflt = some b then rest else (a, b) :: rest)
    else (a', b') :: Memory.write dflt rest a b

/-- Whether every address of a memory is above `lo` and rising, and no byte is the default. -/
def Memory.wfAbove (dflt : Option Byte) (lo : Nat) (m : Memory) : Bool :=
  match m with
  | [] => true
  | (a, b) :: rest => lo ≤ a && dflt != some b && Memory.wfAbove dflt (a + 1) rest

/-- The canonical form: addresses strictly rising, no byte listed that is the default. -/
def Memory.wf (dflt : Option Byte) (m : Memory) : Bool := Memory.wfAbove dflt 0 m

/-- A byte of `IN`: the byte written there, or the free value (R55, log entry 4). -/
def Inf.inByte (u : Inf) (a : Nat) : Byte := (Memory.find u.input a).getD (Config.unwrittenByte .input u.epoch a)

/-- A byte of `OUT`. -/
def Inf.outByte (u : Inf) (a : Nat) : Byte := (Memory.find u.out a).getD (Config.unwrittenByte .out u.epoch a)

/-- A byte of `WIN`. -/
def Inf.winByte (u : Inf) (a : Nat) : Byte := (Memory.find u.win a).getD (Config.unwrittenByte .win u.epoch a)

/-- A byte of `DIN`. -/
def Dfl.dinByte (u : Dfl) (a : Nat) : Byte := (Memory.find u.din a).getD (Config.unwrittenByte .din u.epoch a)

/-- A byte of `RAW`. -/
def Dfl.rawByte (u : Dfl) (a : Nat) : Byte := (Memory.find u.raw a).getD (Config.unwrittenByte .raw u.epoch a)

/-- A byte of `prev` or `cur` (R30). -/
def rowByte (m : Memory) (i : Nat) : Byte := (Memory.find m i).getD 0

/-! ### The input stream of INF (20_memory.md R61, R66, R67) -/

/-- Stream bit `k`: bit `k mod 8` of `IN[k div 8]` (R61). -/
def Inf.bitAt (u : Inf) (k : Nat) : Bool := (u.inByte (k / 8)).getLsbD (k % 8)

/-- The `n` stream bits from `k` on. -/
def Inf.bitsFrom (u : Inf) (k : Nat) : Nat → List Bool
  | 0 => []
  | n + 1 => u.bitAt k :: Inf.bitsFrom u (k + 1) n

/-- The bits that remain: from `bitpos` to the end of `IN` (R66). -/
def Inf.stream (u : Inf) : List Bool := u.bitsFrom u.bitpos (8 * u.inLen - u.bitpos)

/-- Consume `n` bits. -/
def Inf.advance (n : Nat) (u : Inf) : Inf := { u with bitpos := u.bitpos + n }

/-! ### Taking a fault (60_exceptions.md R280), and the way out of it (R285) -/

/-- `raise K` in INF: the fault registers, the phase and the flags are written and `bitpos` is that of the element's first
bit; every other register is as it was. -/
def Inf.raise (k : Kind) (u : Inf) : Inf :=
  { u with
    err := k.code
    errInfo := u.elemStart / 8
    phase := .fault
    flags := .faulted
    bitpos := u.elemStart
    matchLen := none }

/-- `raise K` in DEF. -/
def Dfl.raise (k : Kind) (u : Dfl) : Dfl :=
  { u with
    err := k.code
    errInfo := u.elemStart
    dphase := .fault
    flags := .faulted }

/-- `raise K` in CRC. -/
def Crc.raise (k : Kind) (u : Crc) : Crc :=
  { u with
    err := k.code
    errInfo := u.tag
    cstate := .fault
    active := false
    matched := false
    fault := true }

/-- A reset of INF (70_reset_and_hazards.md R310): the registers of 10_state.md R55; the buffer contents are unspecified
anew. -/
def Inf.unitReset (u : Inf) : Inf := Inf.reset (u.epoch + 1)

/-- A reset of CRC (R310). -/
def Crc.unitReset (_ : Crc) : Crc := Crc.reset

/-- A reset of DEF (R310). -/
def Dfl.unitReset (u : Dfl) : Dfl := Dfl.reset (u.epoch + 1)

/-! ### Elements of INF -/

/-- The first action of every INF step: `elem_start <- bitpos` (10_state.md R21). -/
def Inf.begin (u : Inf) : Inf := { u with elemStart := u.bitpos }

/-- Consume `n` bits of the element and go on, or raise `UnexpectedEof` with nothing consumed (R66). -/
def Inf.take (n : Nat) (k : Inf → Inf) (u : Inf) : Inf :=
  if u.bitpos + n ≤ 8 * u.inLen then k (u.advance n) else u.raise .unexpectedEof

/-- `emit(b)` (42_symbols_lz77.md R190). -/
def Inf.emit (b : Byte) (u : Inf) : Inf :=
  { u with
    out := Memory.write none u.out u.outCount b
    win := Memory.write none u.win (u.outCount % wsize) b
    s1 := adlerS1 u.s1 b
    s2 := adlerS2 u.s1 u.s2 b
    outCount := u.outCount + 1 }

/-- The end of a block (41_blocks_and_tables.md R165). -/
def Inf.blockEnd (u : Inf) : Inf := { u with phase := if u.bfinal then .trailer else .blkhdr }

/-- `emit(getbits(8))`, `n` times, at a byte boundary (R155, 20_memory.md R68). -/
def Inf.copyStored : Nat → Inf → Inf
  | 0, u => u
  | n + 1, u => Inf.copyStored n ((u.emit (u.inByte (u.bitpos / 8))).advance 8)

/-- The copy of a match (R199): each byte is read after the one before it was emitted. -/
def Inf.copyMatch : Nat → Nat → Inf → Inf
  | 0, _, u => u
  | n + 1, dist, u => Inf.copyMatch n dist (u.emit (u.winByte ((u.outCount - dist) % wsize)))

/-- `seq(i)` (10_state.md R23): entry `i` of the one sequence of literal/length and distance lengths. -/
def Inf.seqLen (u : Inf) (i : Nat) : CodeLen :=
  if i < u.nlen then u.llLen.getD i 0 else u.dLen.getD (i - u.nlen) 0

/-- `setlen(i, v)` (41_blocks_and_tables.md R158). -/
def Inf.setLen (i : Nat) (v : CodeLen) (u : Inf) : Inf :=
  if i < u.nlen then { u with llLen := u.llLen.set i v } else { u with dLen := u.dLen.set (i - u.nlen) v }

/-- `setlen(lidx, v); lidx <- lidx + 1`, `n` times (R158, R159). -/
def Inf.appendLens : Nat → CodeLen → Inf → Inf
  | 0, _, u => u
  | n + 1, v, u => Inf.appendLens n v { u.setLen u.lidx v with lidx := u.lidx + 1 }

/-- Table completion (R162): the tests in the order written, faults raised on `u0`, the unit as the step found it. -/
def Inf.completeTables (p : Policy) (u0 u : Inf) : Inf :=
  if u.llLen.getD 256 0 = 0 then u0.raise .invalidDeflateStream
  else if classify u.llLen ≠ .complete then u0.raise .invalidDeflateStream
  else if classify u.dLen = .overSubscribed then u0.raise .invalidDeflateStream
  else if classify u.dLen = .incomplete ∧ incompletePermitted p u.dLen = false then u0.raise .invalidDeflateStream
  else { u with phase := .sym }

/-- The end of a code-length element: table completion when all lengths are read (R158 to R161). -/
def Inf.endLens (p : Policy) (u0 u : Inf) : Inf :=
  if u.lidx = u.nlen + u.ndist then Inf.completeTables p u0 u else u

/-! ### Elements of DEF (44_defilter.md) -/

/-- The first action of every DEF step: `elem_start <- ipos` (10_state.md R28). -/
def Dfl.begin (u : Dfl) : Dfl := { u with elemStart := u.ipos }

/-- Whether sub-image `q` is empty (R242). -/
def Dfl.emptyPass (u : Dfl) (q : Nat) : Bool := u.rowBytes.getD q 0 == 0 || u.rows.getD q 0 == 0

/-- The first non-empty sub-image among the `fuel` ones from `q` on, else `q + fuel`. -/
def Dfl.nextPassFrom (u : Dfl) : Nat → Nat → Nat
  | 0, q => q
  | fuel + 1, q => if u.emptyPass q then Dfl.nextPassFrom u fuel (q + 1) else q

/-- `nextpass(p)` (R242), for `p <= NPASS`. -/
def Dfl.nextPass (u : Dfl) (p : Nat) : Nat := u.nextPassFrom (u.npass.toNat - p) p

/-- Set `pass` by `nextpass(p)`, with what R242 says goes with it: `row <- 0` and `prev` all zero. -/
def Dfl.enterPass (p : Nat) (u : Dfl) : Dfl := { u with pass := u.nextPass p, row := 0, prev := [] }

/-- Reconstruct byte `i` of the row (R243): the filtered byte plus the prediction from left, above and upper-left. -/
def Dfl.rowValue (pr : Nat → Nat → Nat → Nat) (u : Dfl) (cur : Memory) (i : Nat) : Byte :=
  let x := (u.dinByte (u.ipos + 1 + i)).toNat
  let bpp := u.bpp.toNat
  let a := if bpp ≤ i then (rowByte cur (i - bpp)).toNat else 0
  let b := (rowByte u.prev i).toNat
  let c := if bpp ≤ i then (rowByte u.prev (i - bpp)).toNat else 0
  BitVec.ofNat 8 ((x + pr a b c) % 256)

/-- The row loop of R243: `n` bytes from index `i` on, ascending. -/
def Dfl.rebuild (pr : Nat → Nat → Nat → Nat) (u : Dfl) : Nat → Nat → Memory → Memory
  | 0, _, cur => cur
  | n + 1, i, cur => Dfl.rebuild pr u n (i + 1) (Memory.write (some 0) cur i (u.rowValue pr cur i))

/-- `RAW[opos + i] <- cur[i]` for the `n` indices from `i` on (R243). -/
def copyRow (cur : Memory) (opos : Nat) : Nat → Nat → Memory → Memory
  | 0, _, raw => raw
  | n + 1, i, raw => copyRow cur opos n (i + 1) (Memory.write none raw (opos + i) (rowByte cur i))

/-- The scanline step (R243) once the filter-type byte `ft` is read, with its predictor. -/
def Dfl.scanline (ft : Byte) (pr : Nat → Nat → Nat → Nat) (u : Dfl) : Dfl :=
  let u := { u.begin with ftype := ft }
  let n := u.rowBytes.getD u.pass 0
  if u.inLen < u.ipos + 1 + n then u.raise .incompleteImageData
  else
    let cur := u.rebuild pr n 0 u.cur
    let v := { u with
      cur := cur
      raw := copyRow cur u.opos n 0 u.raw
      prev := cur
      ipos := u.ipos + 1 + n
      opos := u.opos + n
      row := u.row + 1 }
    if v.row = v.rows.getD v.pass 0 then v.enterPass (v.pass + 1) else v

/-! ### Counter width (10_state.md R24, log entry 8) -/

/-- Whether every counter of the machine fits the configured width. -/
def State.countersFit (s : State) : Bool :=
  [s.inf.bitpos, s.inf.outCount, s.crc.cnt, s.dfl.ipos, s.dfl.opos, s.dfl.row].all fun v => fitsWidth s.params v

/-- A step whose counters outgrow a finite width has no meaning (93_implementation_defined.md U21). -/
def guardWidth : Host.Outcome State Fault Refusal → Host.Outcome State Fault Refusal
  | .next s => if s.countersFit then .next s else .refused .counterOutgrown
  | .fault f => .fault f
  | .refused r => .refused r

end Sys2Proof.Machine
end

