-- ==== Sys2Proof/Machine/Blocks.lean ====
section
/-! DEFINITION. Block headers, stored blocks and the code-length description of a dynamic block
(41_blocks_and_tables.md). -/

namespace Sys2Proof.Machine

open Sys2Proof

/-- `BLKHDR` (R150): the header's fields are latched, then the block type says what follows. -/
def Inf.blockHeader (bfinal : Bool) (btype : BitVec 2) (next : Inf → Inf) (u : Inf) : Inf :=
  u.begin.take 3 fun u => next { u with bfinal := bfinal, btype := btype }

/-- The fixed code lengths are loaded (R152). -/
def Inf.loadFixed (u : Inf) : Inf := { u with llLen := fixedLlLen, dLen := fixedDLen, phase := .sym }

/-- `STORED` in INF (R155). -/
def Inf.stored (len nlen : BitVec 16) (u : Inf) : Inf :=
  u.begin.take (padBits u.bitpos + 32) fun u =>
    if len ^^^ nlen ≠ 0xFFFF then u.raise .invalidDeflateStream
    else if u.inLen < u.bitpos / 8 + len.toNat then u.raise .unexpectedEof
    else (u.copyStored len.toNat).blockEnd

/-- `DYNHDR` in INF (R156). -/
def Inf.dynhdr (hlit hdist : BitVec 5) (hclen : BitVec 4) (u : Inf) : Inf :=
  u.begin.take 14 fun u =>
    if maxLCodes < litLenCount hlit ∨ maxDCodes < distCount hdist then u.raise .invalidDeflateStream
    else { u with
      nlen := litLenCount hlit
      ndist := distCount hdist
      ncode := codeLenCount hclen
      llLen := List.replicate 288 0
      dLen := List.replicate 32 0
      clLen := List.replicate 19 0
      lidx := 0
      phase := .dynclen }

/-- `CLENS` in INF (R157). -/
def Inf.clens (lens : List (BitVec 3)) (u : Inf) : Inf :=
  u.begin.take (3 * lens.length) fun u =>
    if classify (placeLens u.clLen lens) ≠ .complete then u.raise .invalidDeflateStream
    else { u with clLen := placeLens u.clLen lens, phase := .dynlens }

/-- `CL0` to `CL15` in INF (R158): one explicit code length `v`. -/
def Inf.clExplicit (v : Nat) (p : Policy) (u : Inf) : Inf :=
  let u0 := u.begin
  u0.take (u.clLen.getD v 0).toNat fun u =>
    Inf.endLens p u0 (u.appendLens 1 (BitVec.ofNat 4 v))

/-- `CL16` in INF (R159): repeat the previous length. That there is one is tested before the extra bits are read (R283). -/
def Inf.clRepeat (x : Nat) (p : Policy) (u : Inf) : Inf :=
  let u0 := u.begin
  let r := clBase 16 + x
  u0.take (u.clLen.getD 16 0).toNat fun u =>
    if u.lidx = 0 then u.raise .invalidDeflateStream
    else u.take (clExtra 16) fun u =>
      if u.nlen + u.ndist < u.lidx + r then u.raise .invalidDeflateStream
      else Inf.endLens p u0 (u.appendLens r (u.seqLen (u.lidx - 1)))

/-- `CL17` and `CL18` in INF (R160, R161): a run of zeros; the entries are 0 already (R156). -/
def Inf.clZeros (sym x : Nat) (p : Policy) (u : Inf) : Inf :=
  let u0 := u.begin
  let r := clBase sym + x
  u0.take ((u.clLen.getD sym 0).toNat + clExtra sym) fun u =>
    if u.nlen + u.ndist < u.lidx + r then u.raise .invalidDeflateStream
    else Inf.endLens p u0 { u with lidx := u.lidx + r }

/-- `BLK.STORED` (R150, R151). -/
def execBlkStored (bfinal : Bool) (s : State) : Host.Outcome State Fault Refusal :=
  .next (s.onInf (Inf.blockHeader bfinal 0 fun u => { u with phase := .stored }))

/-- `BLK.FIXED` (R150, R152). -/
def execBlkFixed (bfinal : Bool) (s : State) : Host.Outcome State Fault Refusal :=
  .next (s.onInf (Inf.blockHeader bfinal 1 Inf.loadFixed))

/-- `BLK.DYN` (R150, R153). -/
def execBlkDyn (bfinal : Bool) (s : State) : Host.Outcome State Fault Refusal :=
  .next (s.onInf (Inf.blockHeader bfinal 2 fun u => { u with phase := .dynhdr }))

/-- `BLK.RSV` (R150, R154): the fault leaves `bfinal` and `btype` as they were (R280). -/
def execBlkRsv (_bfinal : Bool) (s : State) : Host.Outcome State Fault Refusal :=
  .next (s.onInf fun u => u.begin.take 3 fun u => u.raise .invalidDeflateStream)

/-- `STORED` (R155). -/
def execStored (len nlen : BitVec 16) (s : State) : Host.Outcome State Fault Refusal :=
  .next (s.onInf (Inf.stored len nlen))

/-- `DYNHDR` (R156). -/
def execDynhdr (hlit hdist : BitVec 5) (hclen : BitVec 4) (s : State) : Host.Outcome State Fault Refusal :=
  .next (s.onInf (Inf.dynhdr hlit hdist hclen))

/-- `CLENS` (R157). -/
def execClens (lens : List (BitVec 3)) (s : State) : Host.Outcome State Fault Refusal :=
  .next (s.onInf (Inf.clens lens))

/-- `CL0` (R158). -/
def execCl0 (s : State) : Host.Outcome State Fault Refusal :=
  .next (s.onInf (Inf.clExplicit 0 s.params.incomplete))

/-- `CL1` (R158). -/
def execCl1 (s : State) : Host.Outcome State Fault Refusal :=
  .next (s.onInf (Inf.clExplicit 1 s.params.incomplete))

/-- `CL2` (R158). -/
def execCl2 (s : State) : Host.Outcome State Fault Refusal :=
  .next (s.onInf (Inf.clExplicit 2 s.params.incomplete))

/-- `CL3` (R158). -/
def execCl3 (s : State) : Host.Outcome State Fault Refusal :=
  .next (s.onInf (Inf.clExplicit 3 s.params.incomplete))

/-- `CL4` (R158). -/
def execCl4 (s : State) : Host.Outcome State Fault Refusal :=
  .next (s.onInf (Inf.clExplicit 4 s.params.incomplete))

/-- `CL5` (R158). -/
def execCl5 (s : State) : Host.Outcome State Fault Refusal :=
  .next (s.onInf (Inf.clExplicit 5 s.params.incomplete))

/-- `CL6` (R158). -/
def execCl6 (s : State) : Host.Outcome State Fault Refusal :=
  .next (s.onInf (Inf.clExplicit 6 s.params.incomplete))

/-- `CL7` (R158). -/
def execCl7 (s : State) : Host.Outcome State Fault Refusal :=
  .next (s.onInf (Inf.clExplicit 7 s.params.incomplete))

/-- `CL8` (R158). -/
def execCl8 (s : State) : Host.Outcome State Fault Refusal :=
  .next (s.onInf (Inf.clExplicit 8 s.params.incomplete))

/-- `CL9` (R158). -/
def execCl9 (s : State) : Host.Outcome State Fault Refusal :=
  .next (s.onInf (Inf.clExplicit 9 s.params.incomplete))

/-- `CL10` (R158). -/
def execCl10 (s : State) : Host.Outcome State Fault Refusal :=
  .next (s.onInf (Inf.clExplicit 10 s.params.incomplete))

/-- `CL11` (R158). -/
def execCl11 (s : State) : Host.Outcome State Fault Refusal :=
  .next (s.onInf (Inf.clExplicit 11 s.params.incomplete))

/-- `CL12` (R158). -/
def execCl12 (s : State) : Host.Outcome State Fault Refusal :=
  .next (s.onInf (Inf.clExplicit 12 s.params.incomplete))

/-- `CL13` (R158). -/
def execCl13 (s : State) : Host.Outcome State Fault Refusal :=
  .next (s.onInf (Inf.clExplicit 13 s.params.incomplete))

/-- `CL14` (R158). -/
def execCl14 (s : State) : Host.Outcome State Fault Refusal :=
  .next (s.onInf (Inf.clExplicit 14 s.params.incomplete))

/-- `CL15` (R158). -/
def execCl15 (s : State) : Host.Outcome State Fault Refusal :=
  .next (s.onInf (Inf.clExplicit 15 s.params.incomplete))

/-- `CL16` (R159). -/
def execCl16 (x : BitVec 2) (s : State) : Host.Outcome State Fault Refusal :=
  .next (s.onInf (Inf.clRepeat x.toNat s.params.incomplete))

/-- `CL17` (R160). -/
def execCl17 (x : BitVec 3) (s : State) : Host.Outcome State Fault Refusal :=
  .next (s.onInf (Inf.clZeros 17 x.toNat s.params.incomplete))

/-- `CL18` (R161). -/
def execCl18 (x : BitVec 7) (s : State) : Host.Outcome State Fault Refusal :=
  .next (s.onInf (Inf.clZeros 18 x.toNat s.params.incomplete))

/-- `TABLES` (R162 to R164): table completion on its own (log entry 3). -/
def execTables (s : State) : Host.Outcome State Fault Refusal :=
  .next (s.onInf fun u => Inf.completeTables s.params.incomplete u.begin u.begin)

end Sys2Proof.Machine
end

