-- ==== Sys2Proof/Machine/Checksum.lean ====
section
/-! DEFINITION. CRC: its three commands (43_crc32.md). -/

namespace Sys2Proof.Machine

open Sys2Proof

/-- `INIT` in CRC (R221): ignored in `FAULT`. -/
def Crc.init (u : Crc) : Crc :=
  if u.cstate = .fault then u
  else { u with reg := 0xFFFFFFFF, cnt := 0, tag := 0, cstate := .accum, active := true, matched := false }

/-- `BYTE(b)` in CRC (R222): ignored outside `ACCUM`; the first four bytes are latched in `tag`. -/
def Crc.byte (b : Byte) (u : Crc) : Crc :=
  if u.cstate ≠ .accum then u
  else { u with
    tag := if u.cnt < 4 then u.tag ||| (b.setWidth 32 <<< (8 * (3 - u.cnt))) else u.tag
    reg := crcByte u.reg b
    cnt := u.cnt + 1 }

/-- `CHECK(e)` in CRC (R223): ignored outside `ACCUM`. -/
def Crc.check (e : Word) (u : Crc) : Crc :=
  if u.cstate ≠ .accum then u
  else if u.reg ^^^ 0xFFFFFFFF = e then { u with cstate := .matched, active := false, matched := true }
  else u.raise .chunkChecksumMismatch

/-- `INIT` (R221). -/
def execInit (s : State) : Host.Outcome State Fault Refusal :=
  .next (s.onCrc Crc.init)

/-- `BYTE` (R222). -/
def execByte (b : Byte) (s : State) : Host.Outcome State Fault Refusal :=
  .next (s.onCrc (Crc.byte b))

/-- `CHECK` (R223). -/
def execCheck (e : Word) (s : State) : Host.Outcome State Fault Refusal :=
  .next (s.onCrc (Crc.check e))

end Sys2Proof.Machine
end

