-- ==== Sys2Proof/Machine/Container.lean ====
section
/-! DEFINITION. The zlib container: `ZHDR` and `ZTRAILER` (40_zlib_container.md). -/

namespace Sys2Proof.Machine

open Sys2Proof

/-- `ZHDR` in INF (R130): the tests in the order written. -/
def Inf.zhdr (cmf flg : Byte) (u : Inf) : Inf :=
  u.begin.take 16 fun u =>
    if zlibMethod cmf ≠ 8 then u.raise .invalidCompressedHeader
    else if 7 < zlibInfo cmf then u.raise .invalidCompressedHeader
    else if zlibHeader cmf flg % 31 ≠ 0 then u.raise .invalidCompressedHeader
    else if zlibDict flg then u.raise .invalidCompressedHeader
    else { u with phase := .blkhdr }

/-- `ZTRAILER` in INF (R131): the checksum, the output length, then bytes left over. -/
def Inf.ztrailer (t : Word) (u : Inf) : Inf :=
  u.begin.take (padBits u.bitpos + 32) fun u =>
    if t ≠ u.s2 ++ u.s1 then u.raise .decompressionChecksumMismatch
    else if u.outCount < u.expectLen then u.raise .incompleteImageData
    else if u.expectLen < u.outCount then u.raise .excessImageData
    else if u.bitpos / 8 < u.inLen then u.raise .trailingCompressedData
    else { u with phase := .done, flags := .ended }

/-- `ZHDR` (R130). -/
def execZhdr (cmf flg : Byte) (s : State) : Host.Outcome State Fault Refusal :=
  .next (s.onInf (Inf.zhdr cmf flg))

/-- `ZTRAILER` (R131). -/
def execZtrailer (t : Word) (s : State) : Host.Outcome State Fault Refusal :=
  .next (s.onInf (Inf.ztrailer t))

end Sys2Proof.Machine
end

