-- ==== Sys2Proof/Machine/Control.lean ====
section
/-! DEFINITION. The `CTRL` commands: start and reset (10_state.md R44, R56; 44_defilter.md R241;
70_reset_and_hazards.md R310). -/

namespace Sys2Proof.Machine

open Sys2Proof

/-- The start initialisation of INF (R56): every working register; the configuration, `OUT` and `WIN` are kept. -/
def Inf.start (u : Inf) : Inf :=
  { u with
    phase := .zhdr
    bitpos := 0
    elemStart := 0
    bfinal := false
    btype := 0
    nlen := 0
    ndist := 0
    ncode := 0
    lidx := 0
    outCount := 0
    s1 := 1
    s2 := 0
    clLen := List.replicate 19 0
    llLen := List.replicate 288 0
    dLen := List.replicate 32 0
    flags := .started
    matchLen := none }

/-- Whether DEF's configuration is legal (R241). -/
def Dfl.configLegal (u : Dfl) : Bool :=
  1 ≤ u.bpp.toNat && u.bpp.toNat ≤ maxBpp && 1 ≤ u.npass.toNat && u.npass.toNat ≤ maxPass

/-- The start of DEF (R241): the configuration check, then the start initialisation. -/
def Dfl.start (u : Dfl) : Dfl :=
  let u := { u with elemStart := 0 }
  if u.configLegal then
    Dfl.enterPass 0 { u with ipos := 0, opos := 0, ftype := 0, dphase := .row, flags := .started }
  else u.raise .configError

/-- Whether a unit ignores `START` (R44): it is busy, or it is in `FAULT` and must be reset first (R285). -/
def Flags.ignoresStart (f : Flags) : Bool := f.busy || f.fault

/-- Whether a run of INF fits a finite `CNT_W` (R24). -/
def State.infRunFits (s : State) : Bool :=
  fitsWidth s.params (8 * s.inf.inLen) && fitsWidth s.params s.inf.expectLen

/-- Whether a run of DEF fits a finite `CNT_W` (00_scope.md R7): its input length and the rows of the sub-images it configures
(log entry 8). -/
def State.dflRunFits (s : State) : Bool :=
  fitsWidth s.params s.dfl.inLen &&
  (List.range s.dfl.npass.toNat).all fun k =>
    fitsWidth s.params (s.dfl.rowBytes.getD k 0) && fitsWidth s.params (s.dfl.rows.getD k 0)

/-- `INF.START` (R44, R56): ignored while busy and in `FAULT`; a run that does not fit a finite `CNT_W` is not started
(R24, log entry 8). -/
def execInfStart (s : State) : Host.Outcome State Fault Refusal :=
  if s.inf.flags.ignoresStart || !s.infRunFits then .next s else .next (s.onInf Inf.start)

/-- `DEF.START` (R44, R241): ignored while busy and in `FAULT`; a run that does not fit a finite `CNT_W` is not started
(00_scope.md R7, log entry 8). -/
def execDefStart (s : State) : Host.Outcome State Fault Refusal :=
  if s.dfl.flags.ignoresStart || !s.dflRunFits then .next s else .next (s.onDfl Dfl.start)

/-- `INF.RESET` (R44, R310). -/
def execInfReset (s : State) : Host.Outcome State Fault Refusal :=
  .next (s.onInf Inf.unitReset)

/-- `CRC.RESET` (R44, R310). -/
def execCrcReset (s : State) : Host.Outcome State Fault Refusal :=
  .next (s.onCrc Crc.unitReset)

/-- `DEF.RESET` (R44, R310). -/
def execDefReset (s : State) : Host.Outcome State Fault Refusal :=
  .next (s.onDfl Dfl.unitReset)

end Sys2Proof.Machine
end

