-- ==== Sys2Proof/Machine/Defilter.lean ====
section
/-! DEFINITION. DEF: the scanlines and the end step (44_defilter.md). -/

namespace Sys2Proof.Machine

open Sys2Proof

/-- An illegal filter type in DEF (R250): `ftype` holds the byte, the rest is as it was (60_exceptions.md R280). -/
def Dfl.invalidFilter (ft : Byte) (u : Dfl) : Dfl := Dfl.raise .invalidFilterType { u.begin with ftype := ft }

/-- The end step in DEF (R251). -/
def Dfl.endStep (u : Dfl) : Dfl :=
  let u := u.begin
  if u.ipos < u.inLen then u.raise .excessImageData
  else { u with dphase := .done, flags := .ended }

/-- `FT0` None (R243, R244). -/
def execFt0 (s : State) : Host.Outcome State Fault Refusal :=
  .next (s.onDfl (Dfl.scanline 0 predNone))

/-- `FT1` Sub (R243, R245). -/
def execFt1 (s : State) : Host.Outcome State Fault Refusal :=
  .next (s.onDfl (Dfl.scanline 1 predSub))

/-- `FT2` Up (R243, R246). -/
def execFt2 (s : State) : Host.Outcome State Fault Refusal :=
  .next (s.onDfl (Dfl.scanline 2 predUp))

/-- `FT3` Average (R243, R247). -/
def execFt3 (s : State) : Host.Outcome State Fault Refusal :=
  .next (s.onDfl (Dfl.scanline 3 predAverage))

/-- `FT4` Paeth (R243, R248). -/
def execFt4 (s : State) : Host.Outcome State Fault Refusal :=
  .next (s.onDfl (Dfl.scanline 4 paeth))

/-- `FT.INVALID` (R250). -/
def execFtInvalid (ft : Byte) (s : State) : Host.Outcome State Fault Refusal :=
  .next (s.onDfl (Dfl.invalidFilter ft))

/-- `DEF.END` (R251). -/
def execDefEnd (s : State) : Host.Outcome State Fault Refusal :=
  .next (s.onDfl Dfl.endStep)

end Sys2Proof.Machine
end

