-- ==== Sys2Proof/Machine/Symbols.lean ====
section
/-! DEFINITION. Symbols: literals, end of block, the two halves of a match (42_symbols_lz77.md). -/

namespace Sys2Proof.Machine

open Sys2Proof

/-- The bits of literal/length symbol `s` with its extra bits (R97, R98). -/
def Inf.symBits (u : Inf) (s : Nat) : Nat := (u.llLen.getD s 0).toNat + lenExtra s

/-- The bits of distance symbol `t` with its extra bits (R99). -/
def Inf.distBits (u : Inf) (t : Nat) : Nat := (u.dLen.getD t 0).toNat + distExtra t

/-- The length half of a match in INF (R194): the length waits for the distance half of the same step (log entry 2). -/
def Inf.lengthHalf (sym x : Nat) (u : Inf) : Inf :=
  u.begin.take (u.symBits sym) fun u => { u with matchLen := some (lenBase sym + x) }

/-- The distance half of a match in INF (R194, R196, R198, R199). It is no new step: `elem_start` stays that of the match. -/
def Inf.distanceHalf (t x : Nat) (u : Inf) : Inf :=
  u.take (u.distBits t) fun u =>
    let dist := distBase t + x
    if u.outCount < dist then u.raise .invalidDeflateStream
    else { u.copyMatch (u.matchLen.getD 0) dist with matchLen := none }

/-- A reserved literal/length symbol in INF (R195). -/
def Inf.reservedSym (sym : Nat) (u : Inf) : Inf :=
  u.begin.take (u.symBits sym) fun u => u.raise .invalidDeflateStream

/-- A reserved distance symbol in INF (R197). -/
def Inf.reservedDist (t : Nat) (u : Inf) : Inf :=
  u.take (u.distBits t) fun u => u.raise .invalidDeflateStream

/-- `LIT` (R192). -/
def execLit (v : Byte) (s : State) : Host.Outcome State Fault Refusal :=
  .next (s.onInf fun u => u.begin.take (u.symBits v.toNat) (Inf.emit v))

/-- `EOB` (R193). -/
def execEob (s : State) : Host.Outcome State Fault Refusal :=
  .next (s.onInf fun u => u.begin.take (u.symBits 256) Inf.blockEnd)

/-- `LEN257` (R98, R194). -/
def execLen257 (s : State) : Host.Outcome State Fault Refusal :=
  .next (s.onInf (Inf.lengthHalf 257 0))

/-- `LEN258` (R98, R194). -/
def execLen258 (s : State) : Host.Outcome State Fault Refusal :=
  .next (s.onInf (Inf.lengthHalf 258 0))

/-- `LEN259` (R98, R194). -/
def execLen259 (s : State) : Host.Outcome State Fault Refusal :=
  .next (s.onInf (Inf.lengthHalf 259 0))

/-- `LEN260` (R98, R194). -/
def execLen260 (s : State) : Host.Outcome State Fault Refusal :=
  .next (s.onInf (Inf.lengthHalf 260 0))

/-- `LEN261` (R98, R194). -/
def execLen261 (s : State) : Host.Outcome State Fault Refusal :=
  .next (s.onInf (Inf.lengthHalf 261 0))

/-- `LEN262` (R98, R194). -/
def execLen262 (s : State) : Host.Outcome State Fault Refusal :=
  .next (s.onInf (Inf.lengthHalf 262 0))

/-- `LEN263` (R98, R194). -/
def execLen263 (s : State) : Host.Outcome State Fault Refusal :=
  .next (s.onInf (Inf.lengthHalf 263 0))

/-- `LEN264` (R98, R194). -/
def execLen264 (s : State) : Host.Outcome State Fault Refusal :=
  .next (s.onInf (Inf.lengthHalf 264 0))

/-- `LEN265` (R98, R194). -/
def execLen265 (x : BitVec 1) (s : State) : Host.Outcome State Fault Refusal :=
  .next (s.onInf (Inf.lengthHalf 265 x.toNat))

/-- `LEN266` (R98, R194). -/
def execLen266 (x : BitVec 1) (s : State) : Host.Outcome State Fault Refusal :=
  .next (s.onInf (Inf.lengthHalf 266 x.toNat))

/-- `LEN267` (R98, R194). -/
def execLen267 (x : BitVec 1) (s : State) : Host.Outcome State Fault Refusal :=
  .next (s.onInf (Inf.lengthHalf 267 x.toNat))

/-- `LEN268` (R98, R194). -/
def execLen268 (x : BitVec 1) (s : State) : Host.Outcome State Fault Refusal :=
  .next (s.onInf (Inf.lengthHalf 268 x.toNat))

/-- `LEN269` (R98, R194). -/
def execLen269 (x : BitVec 2) (s : State) : Host.Outcome State Fault Refusal :=
  .next (s.onInf (Inf.lengthHalf 269 x.toNat))

/-- `LEN270` (R98, R194). -/
def execLen270 (x : BitVec 2) (s : State) : Host.Outcome State Fault Refusal :=
  .next (s.onInf (Inf.lengthHalf 270 x.toNat))

/-- `LEN271` (R98, R194). -/
def execLen271 (x : BitVec 2) (s : State) : Host.Outcome State Fault Refusal :=
  .next (s.onInf (Inf.lengthHalf 271 x.toNat))

/-- `LEN272` (R98, R194). -/
def execLen272 (x : BitVec 2) (s : State) : Host.Outcome State Fault Refusal :=
  .next (s.onInf (Inf.lengthHalf 272 x.toNat))

/-- `LEN273` (R98, R194). -/
def execLen273 (x : BitVec 3) (s : State) : Host.Outcome State Fault Refusal :=
  .next (s.onInf (Inf.lengthHalf 273 x.toNat))

/-- `LEN274` (R98, R194). -/
def execLen274 (x : BitVec 3) (s : State) : Host.Outcome State Fault Refusal :=
  .next (s.onInf (Inf.lengthHalf 274 x.toNat))

/-- `LEN275` (R98, R194). -/
def execLen275 (x : BitVec 3) (s : State) : Host.Outcome State Fault Refusal :=
  .next (s.onInf (Inf.lengthHalf 275 x.toNat))

/-- `LEN276` (R98, R194). -/
def execLen276 (x : BitVec 3) (s : State) : Host.Outcome State Fault Refusal :=
  .next (s.onInf (Inf.lengthHalf 276 x.toNat))

/-- `LEN277` (R98, R194). -/
def execLen277 (x : BitVec 4) (s : State) : Host.Outcome State Fault Refusal :=
  .next (s.onInf (Inf.lengthHalf 277 x.toNat))

/-- `LEN278` (R98, R194). -/
def execLen278 (x : BitVec 4) (s : State) : Host.Outcome State Fault Refusal :=
  .next (s.onInf (Inf.lengthHalf 278 x.toNat))

/-- `LEN279` (R98, R194). -/
def execLen279 (x : BitVec 4) (s : State) : Host.Outcome State Fault Refusal :=
  .next (s.onInf (Inf.lengthHalf 279 x.toNat))

/-- `LEN280` (R98, R194). -/
def execLen280 (x : BitVec 4) (s : State) : Host.Outcome State Fault Refusal :=
  .next (s.onInf (Inf.lengthHalf 280 x.toNat))

/-- `LEN281` (R98, R194). -/
def execLen281 (x : BitVec 5) (s : State) : Host.Outcome State Fault Refusal :=
  .next (s.onInf (Inf.lengthHalf 281 x.toNat))

/-- `LEN282` (R98, R194). -/
def execLen282 (x : BitVec 5) (s : State) : Host.Outcome State Fault Refusal :=
  .next (s.onInf (Inf.lengthHalf 282 x.toNat))

/-- `LEN283` (R98, R194). -/
def execLen283 (x : BitVec 5) (s : State) : Host.Outcome State Fault Refusal :=
  .next (s.onInf (Inf.lengthHalf 283 x.toNat))

/-- `LEN284` (R98, R194). -/
def execLen284 (x : BitVec 5) (s : State) : Host.Outcome State Fault Refusal :=
  .next (s.onInf (Inf.lengthHalf 284 x.toNat))

/-- `LEN285` (R98, R194). -/
def execLen285 (s : State) : Host.Outcome State Fault Refusal :=
  .next (s.onInf (Inf.lengthHalf 285 0))

/-- `RSV286` (R195). -/
def execRsv286 (s : State) : Host.Outcome State Fault Refusal :=
  .next (s.onInf (Inf.reservedSym 286))

/-- `RSV287` (R195). -/
def execRsv287 (s : State) : Host.Outcome State Fault Refusal :=
  .next (s.onInf (Inf.reservedSym 287))

/-- `DIST0` (R99, R196 to R199). -/
def execDist0 (s : State) : Host.Outcome State Fault Refusal :=
  .next (s.onInf (Inf.distanceHalf 0 0))

/-- `DIST1` (R99, R196 to R199). -/
def execDist1 (s : State) : Host.Outcome State Fault Refusal :=
  .next (s.onInf (Inf.distanceHalf 1 0))

/-- `DIST2` (R99, R196 to R199). -/
def execDist2 (s : State) : Host.Outcome State Fault Refusal :=
  .next (s.onInf (Inf.distanceHalf 2 0))

/-- `DIST3` (R99, R196 to R199). -/
def execDist3 (s : State) : Host.Outcome State Fault Refusal :=
  .next (s.onInf (Inf.distanceHalf 3 0))

/-- `DIST4` (R99, R196 to R199). -/
def execDist4 (x : BitVec 1) (s : State) : Host.Outcome State Fault Refusal :=
  .next (s.onInf (Inf.distanceHalf 4 x.toNat))

/-- `DIST5` (R99, R196 to R199). -/
def execDist5 (x : BitVec 1) (s : State) : Host.Outcome State Fault Refusal :=
  .next (s.onInf (Inf.distanceHalf 5 x.toNat))

/-- `DIST6` (R99, R196 to R199). -/
def execDist6 (x : BitVec 2) (s : State) : Host.Outcome State Fault Refusal :=
  .next (s.onInf (Inf.distanceHalf 6 x.toNat))

/-- `DIST7` (R99, R196 to R199). -/
def execDist7 (x : BitVec 2) (s : State) : Host.Outcome State Fault Refusal :=
  .next (s.onInf (Inf.distanceHalf 7 x.toNat))

/-- `DIST8` (R99, R196 to R199). -/
def execDist8 (x : BitVec 3) (s : State) : Host.Outcome State Fault Refusal :=
  .next (s.onInf (Inf.distanceHalf 8 x.toNat))

/-- `DIST9` (R99, R196 to R199). -/
def execDist9 (x : BitVec 3) (s : State) : Host.Outcome State Fault Refusal :=
  .next (s.onInf (Inf.distanceHalf 9 x.toNat))

/-- `DIST10` (R99, R196 to R199). -/
def execDist10 (x : BitVec 4) (s : State) : Host.Outcome State Fault Refusal :=
  .next (s.onInf (Inf.distanceHalf 10 x.toNat))

/-- `DIST11` (R99, R196 to R199). -/
def execDist11 (x : BitVec 4) (s : State) : Host.Outcome State Fault Refusal :=
  .next (s.onInf (Inf.distanceHalf 11 x.toNat))

/-- `DIST12` (R99, R196 to R199). -/
def execDist12 (x : BitVec 5) (s : State) : Host.Outcome State Fault Refusal :=
  .next (s.onInf (Inf.distanceHalf 12 x.toNat))

/-- `DIST13` (R99, R196 to R199). -/
def execDist13 (x : BitVec 5) (s : State) : Host.Outcome State Fault Refusal :=
  .next (s.onInf (Inf.distanceHalf 13 x.toNat))

/-- `DIST14` (R99, R196 to R199). -/
def execDist14 (x : BitVec 6) (s : State) : Host.Outcome State Fault Refusal :=
  .next (s.onInf (Inf.distanceHalf 14 x.toNat))

/-- `DIST15` (R99, R196 to R199). -/
def execDist15 (x : BitVec 6) (s : State) : Host.Outcome State Fault Refusal :=
  .next (s.onInf (Inf.distanceHalf 15 x.toNat))

/-- `DIST16` (R99, R196 to R199). -/
def execDist16 (x : BitVec 7) (s : State) : Host.Outcome State Fault Refusal :=
  .next (s.onInf (Inf.distanceHalf 16 x.toNat))

/-- `DIST17` (R99, R196 to R199). -/
def execDist17 (x : BitVec 7) (s : State) : Host.Outcome State Fault Refusal :=
  .next (s.onInf (Inf.distanceHalf 17 x.toNat))

/-- `DIST18` (R99, R196 to R199). -/
def execDist18 (x : BitVec 8) (s : State) : Host.Outcome State Fault Refusal :=
  .next (s.onInf (Inf.distanceHalf 18 x.toNat))

/-- `DIST19` (R99, R196 to R199). -/
def execDist19 (x : BitVec 8) (s : State) : Host.Outcome State Fault Refusal :=
  .next (s.onInf (Inf.distanceHalf 19 x.toNat))

/-- `DIST20` (R99, R196 to R199). -/
def execDist20 (x : BitVec 9) (s : State) : Host.Outcome State Fault Refusal :=
  .next (s.onInf (Inf.distanceHalf 20 x.toNat))

/-- `DIST21` (R99, R196 to R199). -/
def execDist21 (x : BitVec 9) (s : State) : Host.Outcome State Fault Refusal :=
  .next (s.onInf (Inf.distanceHalf 21 x.toNat))

/-- `DIST22` (R99, R196 to R199). -/
def execDist22 (x : BitVec 10) (s : State) : Host.Outcome State Fault Refusal :=
  .next (s.onInf (Inf.distanceHalf 22 x.toNat))

/-- `DIST23` (R99, R196 to R199). -/
def execDist23 (x : BitVec 10) (s : State) : Host.Outcome State Fault Refusal :=
  .next (s.onInf (Inf.distanceHalf 23 x.toNat))

/-- `DIST24` (R99, R196 to R199). -/
def execDist24 (x : BitVec 11) (s : State) : Host.Outcome State Fault Refusal :=
  .next (s.onInf (Inf.distanceHalf 24 x.toNat))

/-- `DIST25` (R99, R196 to R199). -/
def execDist25 (x : BitVec 11) (s : State) : Host.Outcome State Fault Refusal :=
  .next (s.onInf (Inf.distanceHalf 25 x.toNat))

/-- `DIST26` (R99, R196 to R199). -/
def execDist26 (x : BitVec 12) (s : State) : Host.Outcome State Fault Refusal :=
  .next (s.onInf (Inf.distanceHalf 26 x.toNat))

/-- `DIST27` (R99, R196 to R199). -/
def execDist27 (x : BitVec 12) (s : State) : Host.Outcome State Fault Refusal :=
  .next (s.onInf (Inf.distanceHalf 27 x.toNat))

/-- `DIST28` (R99, R196 to R199). -/
def execDist28 (x : BitVec 13) (s : State) : Host.Outcome State Fault Refusal :=
  .next (s.onInf (Inf.distanceHalf 28 x.toNat))

/-- `DIST29` (R99, R196 to R199). -/
def execDist29 (x : BitVec 13) (s : State) : Host.Outcome State Fault Refusal :=
  .next (s.onInf (Inf.distanceHalf 29 x.toNat))

/-- `RSV30` (R197). -/
def execRsv30 (s : State) : Host.Outcome State Fault Refusal :=
  .next (s.onInf (Inf.reservedDist 30))

/-- `RSV31` (R197). -/
def execRsv31 (s : State) : Host.Outcome State Fault Refusal :=
  .next (s.onInf (Inf.reservedDist 31))

end Sys2Proof.Machine
end

