-- ==== Sys2Proof/Machine/Regs.lean ====
section
/-! DEFINITION. The register files as the host reads and writes them (10_state.md R40 to R45). -/

namespace Sys2Proof.Machine

open Sys2Proof

/-- A read of INF register `n` (R41); write-only and unlisted registers read 0 (R40). -/
def Inf.readReg (u : Inf) (n : Nat) : Nat :=
  match n with
  | 1 => u.status
  | 2 => u.err.toNat
  | 3 => u.errInfo
  | 4 => u.inLen
  | 5 => u.expectLen
  | 6 => u.outCount
  | 7 => u.s2.toNat * 65536 + u.s1.toNat
  | 8 => u.bitpos
  | _ => 0

/-- A read of CRC register `n` (R42, 43_crc32.md R224). -/
def Crc.readReg (u : Crc) (n : Nat) : Nat :=
  match n with
  | 1 => u.status
  | 2 => u.err.toNat
  | 3 => u.errInfo.toNat
  | 6 => (u.reg ^^^ 0xFFFFFFFF).toNat
  | 7 => u.cnt
  | 8 => u.tag.toNat
  | _ => 0

/-- A read of DEF register `n` (R43). -/
def Dfl.readReg (u : Dfl) (n : Nat) : Nat :=
  match n with
  | 1 => u.status
  | 2 => u.err.toNat
  | 3 => u.errInfo
  | 4 => u.inLen
  | 5 => u.bpp.toNat
  | 6 => u.npass.toNat
  | 21 => u.opos
  | 22 => u.ipos
  | 23 => u.ftype.toNat
  | n =>
    if 7 ≤ n ∧ n ≤ 20 then
      if (n - 7) % 2 = 0 then u.rowBytes.getD ((n - 7) / 2) 0 else u.rows.getD ((n - 7) / 2) 0
    else 0

/-- A read of register `n` of unit `u`; it has no side effect (R45). -/
def State.readReg (s : State) (u : UnitId) (n : Nat) : Nat :=
  match u with
  | .inf => s.inf.readReg n
  | .crc => s.crc.readReg n
  | .dfl => s.dfl.readReg n

/-- A write to a configuration register of INF; ignored while `BUSY`, and for every other register (R40, R45). -/
def Inf.writeConfig (n v : Nat) (u : Inf) : Inf :=
  if u.flags.busy then u
  else
    match n with
    | 4 => { u with inLen := v }
    | 5 => { u with expectLen := v }
    | _ => u

/-- A write to a configuration register of DEF; ignored while `BUSY`, and for every other register (R40, R45). -/
def Dfl.writeConfig (n v : Nat) (u : Dfl) : Dfl :=
  if u.flags.busy then u
  else
    match n with
    | 4 => { u with inLen := v }
    | 5 => { u with bpp := BitVec.ofNat 4 v }
    | 6 => { u with npass := BitVec.ofNat 4 v }
    | n =>
      if 7 ≤ n ∧ n ≤ 20 then
        if (n - 7) % 2 = 0 then { u with rowBytes := u.rowBytes.set ((n - 7) / 2) v }
        else { u with rows := u.rows.set ((n - 7) / 2) v }
      else u

/-- A register write that is no command (R40). The value is kept whole, a natural number that never wraps (R24, log entry 8):
`START` tests whether the run fits a finite `CNT_W`. CRC has no configuration register (R42). -/
def State.writeConfig (u : UnitId) (n v : Nat) (s : State) : State :=
  match u with
  | .inf => s.onInf (Inf.writeConfig n v)
  | .dfl => s.onDfl (Dfl.writeConfig n v)
  | .crc => s

end Sys2Proof.Machine
end

