-- ==== Sys2Proof/Machine/Turn.lean ====
section
/-! DEFINITION. One turn of an agent: fetching and running an element in INF and in DEF, and a host action. -/

namespace Sys2Proof.Machine

open Sys2Proof

/-! ### INF -/

/-- The decoder's context in INF (30_encoding.md R111); `none` when the unit has no step of its own (10_state.md R22). A
match whose length half has run is completed before anything else (log entry 2). -/
def Inf.ctx (u : Inf) : Option Ctx :=
  if u.matchLen.isSome then some (.dist u.dLen)
  else
    match u.phase with
    | .idle | .done | .fault => none
    | .zhdr => some .zhdr
    | .blkhdr => some .blkhdr
    | .stored => some (.stored (padBits u.bitpos))
    | .dynhdr => some .dynhdr
    | .dynclen => some (.dynclen u.ncode)
    | .dynlens => if u.lidx = u.nlen + u.ndist then some .tables else some (.dynlens u.clLen (u.lidx == 0))
    | .sym => some (.sym u.llLen)
    | .trailer => some (.trailer (padBits u.bitpos))

/-- The fault INF takes when the decoder rejects (R66, R104, R159, R271, R274). -/
def Reject.kind : Reject → Kind
  | .endOfInput => .unexpectedEof
  | .noCode => .invalidDeflateStream
  | .noPrevious => .invalidDeflateStream
  | .noSymbol => .invalidDeflateStream
  | .notCommand => .invalidDeflateStream

/-- INF takes the fault of a rejected fetch; `elem_start` is that of the element, also when the second half of a match is
rejected. -/
def Inf.fetchFault (k : Kind) (u : Inf) : Inf := if u.matchLen.isSome then u.raise k else u.begin.raise k

/-- Fetch one instruction at `bitpos` and run it. -/
def infFetchRun (s : State) : Host.Outcome State Fault Refusal :=
  match s.inf.ctx with
  | none => .next s
  | some c =>
    match decode c s.inf.stream with
    | .ok (i, _) => exec i s
    | .error r => .next (s.onInf (Inf.fetchFault (Reject.kind r)))

/-- INF's turn: one element (00_scope.md R11). A match is one element made of two instructions, and both run (R191, R194). -/
def infTurn (s : State) : Host.Outcome State Fault Refusal :=
  match infFetchRun s with
  | .next t => if t.inf.matchLen.isSome then infFetchRun t else .next t
  | o => o

/-! ### DEF -/

/-- The filter-type byte of the next scanline as bits, none at the end of `DIN` (44_defilter.md R243). -/
def Dfl.stream (u : Dfl) : List Bool := if u.ipos < u.inLen then fieldBits 8 (u.dinByte u.ipos).toNat else []

/-- DEF's turn: one scanline, or the end step when `pass = NPASS` (R243, R251); beyond it no rule applies (log entry 14). -/
def dflTurn (s : State) : Host.Outcome State Fault Refusal :=
  if s.dfl.dphase ≠ .row then .next s
  else if s.dfl.npass.toNat < s.dfl.pass then .fault .noRule
  else
    match decode (if s.dfl.pass < s.dfl.npass.toNat then .row else .defEnd) s.dfl.stream with
    | .ok (i, _) => exec i s
    | .error _ => .next (s.onDfl fun u => u.begin.raise .incompleteImageData)

/-! ### The host -/

/-- The host puts a byte into `IN`; refused while INF is busy (70_reset_and_hazards.md R321). -/
def hostFillIn (a : Nat) (b : Byte) (s : State) : Host.Outcome State Fault Refusal :=
  if s.inf.flags.busy then .refused .hostTouchedBusyBuffer
  else .next (s.onInf fun u => { u with input := Memory.write none u.input a b })

/-- The host puts a byte into `DIN`; refused while DEF is busy (R321). -/
def hostFillDin (a : Nat) (b : Byte) (s : State) : Host.Outcome State Fault Refusal :=
  if s.dfl.flags.busy then .refused .hostTouchedBusyBuffer
  else .next (s.onDfl fun u => { u with din := Memory.write none u.din a b })

/-- A host read of a byte the spec gives no value (93_implementation_defined.md U3, U16; log entry 6). -/
def hostReadUnspecified (s : State) : State :=
  { s with hostData := (Config.unspecifiedRead s.draws).toNat, draws := s.draws + 1 }

/-- The host reads a byte of `OUT`: refused while INF is busy (R321), specified where the output is valid (10_state.md R26). -/
def hostTakeOut (a : Nat) (s : State) : Host.Outcome State Fault Refusal :=
  if s.inf.flags.busy then .refused .hostTouchedBusyBuffer
  else if s.inf.flags.outValid ∧ a < s.inf.outCount then .next { s with hostData := (s.inf.outByte a).toNat }
  else .next (hostReadUnspecified s)

/-- The host reads a byte of `RAW`: refused while DEF is busy (R321), specified where the output is valid (R28). -/
def hostTakeRaw (a : Nat) (s : State) : Host.Outcome State Fault Refusal :=
  if s.dfl.flags.busy then .refused .hostTouchedBusyBuffer
  else if s.dfl.flags.outValid ∧ a < s.dfl.opos then .next { s with hostData := (s.dfl.rawByte a).toNat }
  else .next (hostReadUnspecified s)

/-- The host makes INF's valid output DEF's input, `DIN = OUT[0 .. INF_OUT_LEN-1]` and `DEF_IN_LEN = INF_OUT_LEN`
(20_memory.md R79, 70_reset_and_hazards.md R324). DESIGN CHOICE, unsafe (log entry 18): the spec is silent on bytes of `DIN` at
or beyond `INF_OUT_LEN`; `DIN` is replaced whole, so bytes written there before are forgotten and read as the free value of a
byte nothing has written (log entry 4). -/
def hostHandoff (s : State) : Host.Outcome State Fault Refusal :=
  if s.inf.flags.busy || s.dfl.flags.busy then .refused .hostTouchedBusyBuffer
  else if s.inf.flags.done && s.inf.flags.outValid then
    .next (s.onDfl fun u =>
      { u with din := s.inf.out.filter fun c => c.1 < s.inf.outCount, inLen := s.inf.outCount })
  else .refused .handoffWithoutOutput

/-- Power-on reset: all three units at once (70_reset_and_hazards.md R310). -/
def hostPowerOn (s : State) : State := ((s.onInf Inf.unitReset).onCrc Crc.unitReset).onDfl Dfl.unitReset

/-- A host register write: a command runs as its instruction (30_encoding.md R108, 10_state.md R44), any other write goes to
the configuration register it names. -/
def hostWrite (u : UnitId) (n v : Nat) (s : State) : Host.Outcome State Fault Refusal :=
  match decode (.reg u n) (fieldBits 32 v) with
  | .ok (i, _) => exec i s
  | .error _ => .next (s.writeConfig u n v)

/-- The host's turn. -/
def hostTurn (op : HostOp) (s : State) : Host.Outcome State Fault Refusal :=
  match op with
  | .write u n v => hostWrite u n v s
  | .read u n => .next { s with hostData := s.readReg u n }
  | .fillIn a b => hostFillIn a b s
  | .fillDin a b => hostFillDin a b s
  | .takeOut a => hostTakeOut a s
  | .takeRaw a => hostTakeRaw a s
  | .handoff => hostHandoff s
  | .powerOn => .next (hostPowerOn s)

/-! ### Turns -/

/-- A unit's turn; CRC has no step of its own (10_state.md R20). -/
def unitTurn (u : UnitId) (s : State) : Host.Outcome State Fault Refusal :=
  match u with
  | .inf => infTurn s
  | .crc => .next s
  | .dfl => dflTurn s

/-- The turn of the agent an event names. -/
def eventTurn (e : Event) (s : State) : Host.Outcome State Fault Refusal :=
  match e with
  | .unit u => unitTurn u s
  | .host op => hostTurn op s

/-- The turn taken when the agenda is empty: a busy unit goes on, a free value choosing between two (log entry 1); a machine
with no busy unit stays as it is (60_exceptions.md R295). -/
def freeTurn (s : State) : Host.Outcome State Fault Refusal :=
  if s.inf.flags.busy then
    if s.dfl.flags.busy then
      if Config.arbiter s.tick then infTurn { s with tick := s.tick + 1 } else dflTurn { s with tick := s.tick + 1 }
    else infTurn s
  else if s.dfl.flags.busy then dflTurn s
  else .next s

/-! ### Placing a word of the opcode table where the next fetch reads it (log entries 10, 11) -/

/-- `n` bytes of a number, the lowest first, at addresses from `a` on. -/
def byteCells : Nat → Nat → Nat → Memory
  | 0, _, _ => []
  | n + 1, a, w => (a, BitVec.ofNat 8 w) :: byteCells n (a + 1) (w / 256)

/-- INF running in a phase, with the bits of `w` at the start of an `IN` of 8 bytes. -/
def Inf.fetching (phase : Phase) (w : Nat) (u : Inf) : Inf :=
  { u.start with phase := phase, input := byteCells 8 0 w, inLen := 8 }

/-- DEF running a sub-image of one row of one byte, with the bytes of `w` at the start of a `DIN` of 8 bytes. -/
def Dfl.fetching (w : Nat) (u : Dfl) : Dfl :=
  Dfl.start { u with bpp := 1, npass := 1, rowBytes := u.rowBytes.set 0 1, rows := u.rows.set 0 1,
                     din := byteCells 8 0 w, inLen := 8 }

/-- The state whose very next step fetches the word: the unit's input and phase are set and its turn is put first on the
agenda; a register command is put there as the host's write. -/
def placeWord (c : Ctx) (w : Nat) (s : State) : State :=
  match c with
  | .zhdr => { s.onInf (Inf.fetching .zhdr w) with agenda := .unit .inf :: s.agenda }
  | .dynhdr => { s.onInf (Inf.fetching .dynhdr w) with agenda := .unit .inf :: s.agenda }
  | .row => { s.onDfl (Dfl.fetching w) with agenda := .unit .dfl :: s.agenda }
  | .reg u n => { s with agenda := .host (.write u n w) :: s.agenda }
  | .blkhdr | .stored _ | .dynclen _ | .dynlens _ _ | .tables | .sym _ | .dist _ | .trailer _ | .defEnd =>
    { s.onInf (Inf.fetching .blkhdr w) with agenda := .unit .inf :: s.agenda }

end Sys2Proof.Machine
end

