-- ==== Sys2Proof/Machine/Step.lean ====
section
/-! DEFINITION. One step of the machine, and a word of the opcode table placed where the next step fetches it. -/

namespace Sys2Proof.Machine

open Sys2Proof

/-- One step: the agent at the head of the agenda takes its turn; with an empty agenda a busy unit goes on (log entry 1). A
finite `CNT_W` is checked after it (log entry 8). -/
def step (s : State) : Host.Outcome State Fault Refusal :=
  match s.agenda with
  | [] => guardWidth (freeTurn s)
  | e :: rest => guardWidth (eventTurn e { s with agenda := rest })

/-- `s` with an opcode-table word of `nbits` bits placed so that the very next step fetches and runs it; the bits above
`nbits` are 0 (log entries 10, 11). -/
def State.withFetchWord (s : State) (nbits w : Nat) : State := placeWord (tableCtx nbits w) (w % 2 ^ nbits) s

end Sys2Proof.Machine
end

