-- ==== Sys2Proof/Safety.lean ====
section
/-! DEFINITION. What counts as a safe state, and the terms the statements use: the invariants, the registers a fault leaves,
and the spec's own closed forms (Kraft sum, checksums of a byte sequence) that the machine's loops are compared with. -/

namespace Sys2Proof.Machine

open Sys2Proof

/-! ### Invariants -/

/-- The phases 1 to 8, in which INF is busy (10_state.md R22, R26). -/
def Phase.running : Phase → Bool
  | .zhdr | .blkhdr | .stored | .dynhdr | .dynclen | .dynlens | .sym | .trailer => true
  | .idle | .done | .fault => false

/-- What the flags of INF mean (R26), and that the error code is recorded exactly in `FAULT` (R46). -/
abbrev Inf.flagsInv (u : Inf) : Prop :=
  u.flags.busy = u.phase.running ∧ u.flags.done = decide (u.phase = .done) ∧
  u.flags.fault = decide (u.phase = .fault) ∧ u.flags.outValid = decide (u.phase = .done) ∧
  (u.err = 0 ↔ u.phase ≠ .fault)

/-- The cursor of INF (R21, R25): it stays inside `IN` while the unit runs, an element starts at or before it, a faulted
unit stands at the faulting element, the zlib header is at bit 0, and no match is half done. -/
abbrev Inf.cursorInv (u : Inf) : Prop :=
  (u.phase.running → u.bitpos ≤ 8 * u.inLen) ∧ u.elemStart ≤ u.bitpos ∧
  (u.phase = .fault → u.bitpos = u.elemStart ∧ u.errInfo = u.elemStart / 8) ∧
  (u.phase = .zhdr → u.bitpos = 0) ∧ u.matchLen = none

/-- The control state of INF is legal. -/
abbrev Inf.controlInv (u : Inf) : Prop := u.flagsInv ∧ u.cursorInv

/-- The counts of a dynamic block have the widths of R21 and, while its lengths are read, the ranges of R156. -/
abbrev Inf.countsInv (u : Inf) : Prop :=
  u.nlen ≤ maxLCodes ∧ u.ndist ≤ maxDCodes ∧ u.ncode ≤ 19 ∧ u.lidx ≤ u.nlen + u.ndist ∧
  (u.phase = .dynclen ∨ u.phase = .dynlens → 257 ≤ u.nlen ∧ 1 ≤ u.ndist ∧ 4 ≤ u.ncode) ∧
  (u.phase = .dynclen → u.lidx = 0 ∧ ∀ l ∈ u.clLen, l = 0) ∧
  (u.phase = .dynlens → u.lidx < u.nlen + u.ndist)

/-- The length arrays of INF (R23): their sizes, the 3-bit bound of `cl_len`, the entries not read yet, and the sets that are
in force in each phase (R157, R162). -/
abbrev Inf.arraysInv (u : Inf) : Prop :=
  u.clLen.length = 19 ∧ u.llLen.length = 288 ∧ u.dLen.length = 32 ∧ (∀ l ∈ u.clLen, l.toNat ≤ 7) ∧
  (u.phase = .dynclen ∨ u.phase = .dynlens →
    (∀ k < 288, (u.nlen ≤ k ∨ u.lidx ≤ k) → u.llLen.getD k 0 = 0) ∧
    (∀ k < 32, u.lidx ≤ u.nlen + k → u.dLen.getD k 0 = 0)) ∧
  (u.phase = .dynlens → classify u.clLen = .complete) ∧
  (u.phase = .sym →
    classify u.llLen = .complete ∧ u.llLen.getD 256 0 ≠ 0 ∧ classify u.dLen ≠ .overSubscribed)

/-- The code tables of INF are legal. -/
abbrev Inf.tablesInv (u : Inf) : Prop := u.countsInv ∧ u.arraysInv

/-- The window is a view of the output (R51): for each of the last `min(out_count, WSIZE)` output positions `j`,
`WIN[j mod WSIZE] = OUT[j]`, both written in this run. -/
abbrev Inf.windowInv (u : Inf) : Prop :=
  ∀ j < u.outCount, u.outCount ≤ j + wsize →
    (Memory.find u.out j).isSome ∧ Memory.find u.win (j % wsize) = Memory.find u.out j

/-- The spaces of INF are in canonical form and `WIN` has addresses below `WSIZE` only (R50). -/
abbrev Inf.memoryInv (u : Inf) : Prop :=
  Memory.wf none u.input ∧ Memory.wf none u.out ∧ Memory.wf none u.win ∧ ∀ c ∈ u.win, c.1 < wsize

/-- The flags of CRC mean what R27 says, the error code is 0 or 3 (R42), and the tag bytes not fed are 0 (R27). -/
abbrev Crc.inv (u : Crc) : Prop :=
  u.active = decide (u.cstate = .accum) ∧ u.matched = decide (u.cstate = .matched) ∧
  u.fault = decide (u.cstate = .fault) ∧
  u.err = (if u.cstate = .fault then 3 else 0) ∧ (u.cstate = .fault → u.errInfo = u.tag) ∧
  u.tag.toNat % 2 ^ (8 * (4 - u.cnt)) = 0

/-- What the flags of DEF mean (R28), and that the error code is recorded exactly in `FAULT` (R46). -/
abbrev Dfl.flagsInv (u : Dfl) : Prop :=
  u.flags.busy = decide (u.dphase = .row) ∧ u.flags.done = decide (u.dphase = .done) ∧
  u.flags.fault = decide (u.dphase = .fault) ∧ u.flags.outValid = decide (u.dphase = .done) ∧
  (u.err = 0 ↔ u.dphase ≠ .fault)

/-- The cursors of DEF (R28, R29): while it runs the configuration is legal (44_defilter.md R241), the current sub-image is
a non-empty one with a row left or the last is done (R242), and the first row of a sub-image has an all-zero `prev`. -/
abbrev Dfl.cursorInv (u : Dfl) : Prop :=
  u.pass ≤ maxPass ∧ u.opos ≤ u.ipos ∧ u.elemStart ≤ u.ipos ∧
  (u.dphase = .row →
    u.configLegal ∧ u.pass ≤ u.npass.toNat ∧ u.ipos ≤ u.inLen ∧
    (u.pass < u.npass.toNat → u.emptyPass u.pass = false ∧ u.row < u.rows.getD u.pass 0) ∧
    (u.row = 0 → u.prev = []))

/-- The spaces and row buffers of DEF are in canonical form (R50, R30), and it has seven descriptors (R43). -/
abbrev Dfl.memoryInv (u : Dfl) : Prop :=
  Memory.wf none u.din ∧ Memory.wf none u.raw ∧ Memory.wf (some 0) u.prev ∧ Memory.wf (some 0) u.cur ∧
  u.rowBytes.length = 7 ∧ u.rows.length = 7

/-- The state of DEF is legal. -/
abbrev Dfl.inv (u : Dfl) : Prop := u.flagsInv ∧ u.cursorInv ∧ u.memoryInv

/-! ### The trailing checksum of a byte sequence (40_zlib_container.md R132) -/

/-- `s1` after the bytes of a sequence, from 1: the sum of the bytes plus 1. -/
def adlerSum1 (bs : List Byte) : Nat := (1 + (bs.map (·.toNat)).sum) % 65521

/-- `s2` after the bytes of a sequence, from 0: the sum of the `s1` values after each byte, the sequence given last byte
first. -/
def adlerSum2 : List Byte → Nat
  | [] => 0
  | b :: bs => (adlerSum2 bs + adlerSum1 (b :: bs)) % 65521

/-- The output of the run so far, last byte first. -/
def Inf.outputReversed (u : Inf) : Nat → List Byte
  | 0 => []
  | n + 1 => u.outByte n :: Inf.outputReversed u n

/-- `INF_ADLER` is the checksum of the output (R132), and every output byte was written (20_memory.md R69). -/
abbrev Inf.adlerInv (u : Inf) : Prop :=
  (∀ j < u.outCount, (Memory.find u.out j).isSome) ∧
  u.s1.toNat = adlerSum1 (u.outputReversed u.outCount) ∧ u.s2.toNat = adlerSum2 (u.outputReversed u.outCount)

/-- The state of the machine is legal. -/
abbrev State.inv (s : State) : Prop :=
  s.inf.controlInv ∧ s.inf.tablesInv ∧ s.inf.windowInv ∧ s.inf.memoryInv ∧ s.inf.adlerInv ∧ s.crc.inv ∧ s.dfl.inv

/-! ### Registers after an element (10_state.md R25) and after a fault (60_exceptions.md R280) -/

/-- INF after an element of `n` bits that writes nothing but the cursor: `elem_start` is the element's first bit. -/
def Inf.consumed (n : Nat) (u : Inf) : Inf := { u with elemStart := u.bitpos, bitpos := u.bitpos + n }

/-- INF after a fault of code `code` in an element whose first bit is `start`: the fault registers, the phase, the flags and
`elem_start` are written, and `bitpos` is back at the element's first bit; every other register is as it was. -/
def Inf.stoppedAt (code : BitVec 8) (start : Nat) (u : Inf) : Inf :=
  { u with
    elemStart := start
    bitpos := start
    err := code
    errInfo := start / 8
    phase := .fault
    flags := ⟨false, false, true, false⟩
    matchLen := none }

/-- INF after a fault of code `code` in the element that starts at `bitpos`. -/
def Inf.stopped (code : BitVec 8) (u : Inf) : Inf := u.stoppedAt code u.bitpos

/-- DEF after a fault of code `code` in a scanline that starts at `ipos` and whose filter-type byte is `ft`, if it was
read. -/
def Dfl.stopped (code : BitVec 8) (ft : Option Byte) (u : Dfl) : Dfl :=
  { u with
    elemStart := u.ipos
    ftype := ft.getD u.ftype
    err := code
    errInfo := u.ipos
    dphase := .fault
    flags := ⟨false, false, true, false⟩ }

/-! ### Output (42_symbols_lz77.md R190, 40_zlib_container.md R132) -/

/-- `adler_update(b)` on the pair `s1`, `s2`. -/
def adlerUpdate (p : BitVec 16 × BitVec 16) (b : Byte) : BitVec 16 × BitVec 16 :=
  (BitVec.ofNat 16 ((p.1.toNat + b.toNat) % 65521),
   BitVec.ofNat 16 ((p.2.toNat + (p.1.toNat + b.toNat) % 65521) % 65521))

/-- `v` is INF `u` after the bytes `bs` were emitted in order: they stand in `OUT` from `out_count` on and, the last 32768 of
them, in `WIN`, they are in the checksum, `out_count` has grown by their number, and nothing else has changed. -/
def Inf.emitted (bs : List Byte) (u v : Inf) : Prop :=
  v = { u with outCount := u.outCount + bs.length, out := v.out, win := v.win, s1 := v.s1, s2 := v.s2 } ∧
  (v.s1, v.s2) = bs.foldl adlerUpdate (u.s1, u.s2) ∧
  (∀ j, Memory.find v.out j =
    if u.outCount ≤ j ∧ j < u.outCount + bs.length then bs[j - u.outCount]? else Memory.find u.out j) ∧
  (∀ k < bs.length, bs.length ≤ k + wsize → Memory.find v.win ((u.outCount + k) % wsize) = bs[k]?) ∧
  (∀ a, (∀ k < bs.length, (u.outCount + k) % wsize ≠ a) → Memory.find v.win a = Memory.find u.win a)

/-! ### Counter width (10_state.md R24, 00_scope.md R7) -/

/-- A run of INF with this configuration fits `CNT_W` (R24); always so when it is unbounded. -/
def State.infFits (s : State) : Prop :=
  ∀ w, s.params.cntW = some w → 8 * s.inf.inLen < 2 ^ w ∧ s.inf.expectLen < 2 ^ w

/-- A run of DEF with this configuration fits `CNT_W` (R7, log entry 8); always so when it is unbounded. -/
def State.dflFits (s : State) : Prop :=
  ∀ w, s.params.cntW = some w →
    s.dfl.inLen < 2 ^ w ∧ ∀ k < s.dfl.npass.toNat, s.dfl.rowBytes.getD k 0 < 2 ^ w ∧ s.dfl.rows.getD k 0 < 2 ^ w

/-! ### Two runs compared (70_reset_and_hazards.md R312) -/

/-- Two INFs a run cannot tell apart: the same registers and input, and the same output and window bytes where a rule can
read them (10_state.md R51). The fault registers count only in `FAULT`. -/
def Inf.agree (u v : Inf) : Prop :=
  v = { u with
    err := v.err, errInfo := v.errInfo, input := v.input, out := v.out, win := v.win, epoch := v.epoch } ∧
  (u.phase = .fault → u.err = v.err ∧ u.errInfo = v.errInfo) ∧
  (∀ a < u.inLen, u.inByte a = v.inByte a) ∧
  (∀ j < u.outCount, u.outByte j = v.outByte j) ∧
  (∀ j < u.outCount, u.outCount ≤ j + wsize → u.winByte (j % wsize) = v.winByte (j % wsize))

/-- Two DEFs a run cannot tell apart. Bytes of `cur` beyond those a row writes are read by no rule. -/
def Dfl.agree (u v : Dfl) : Prop :=
  v = { u with
    err := v.err, errInfo := v.errInfo, din := v.din, raw := v.raw, prev := v.prev, cur := v.cur, epoch := v.epoch } ∧
  (u.dphase = .fault → u.err = v.err ∧ u.errInfo = v.errInfo) ∧
  (∀ a < u.inLen, u.dinByte a = v.dinByte a) ∧
  (∀ j < u.opos, u.rawByte j = v.rawByte j) ∧
  (∀ i < u.rowBytes.getD u.pass 0, rowByte u.prev i = rowByte v.prev i)

/-- `n` turns of INF one after the other, as long as each gives a next state. -/
def infTurns : Nat → State → Option State
  | 0, s => some s
  | n + 1, s =>
    match infTurn s with
    | .next t => infTurns n t
    | .fault _ | .refused _ => none

/-- `n` turns of DEF one after the other, as long as each gives a next state. -/
def dflTurns : Nat → State → Option State
  | 0, s => some s
  | n + 1, s =>
    match dflTurn s with
    | .next t => dflTurns n t
    | .fault _ | .refused _ => none

/-! ### Huffman sets (30_encoding.md R102, 41_blocks_and_tables.md R162 to R164) -/

/-- `K`, the Kraft sum of R102. -/
def kraftSum (lens : List CodeLen) : Nat := (lens.map fun l => if l = 0 then 0 else 2 ^ (15 - l.toNat)).sum

/-- What table completion accepts: symbol 256 has a code, the literal/length set is complete, and the distance set is
complete or a permitted incomplete one. -/
def tablesAccepted (p : Policy) (ll d : List CodeLen) : Prop :=
  ll.getD 256 0 ≠ 0 ∧ kraftSum ll = 32768 ∧
  (kraftSum d = 32768 ∨
    p = .rfc ∧ ((∀ l ∈ d, l = 0) ∨ ∃ t < d.length, d.getD t 0 = 1 ∧ ∀ k < d.length, k ≠ t → d.getD k 0 = 0))

/-- The second loop of R103: the symbols in ascending order take the next code of their length, `next[L]` at index `L`. -/
def assignCodes : List CodeLen → List Nat → List (Option Nat)
  | [], _ => []
  | l :: ls, next =>
    if l = 0 then none :: assignCodes ls next
    else some (next.getD l.toNat 0) :: assignCodes ls (next.set l.toNat (next.getD l.toNat 0 + 1))

/-- The first loop of R103 for `L` from `L` on: `code <- (code + cnt[L-1]) << 1; next[L] <- code`. -/
def nextCodes (lens : List CodeLen) : Nat → Nat → Nat → List Nat
  | 0, _, _ => []
  | fuel + 1, L, code =>
    let code := (code + countLen lens (L - 1)) * 2
    code :: nextCodes lens fuel (L + 1) code

/-- R103 whole: the code of every symbol, `none` for a symbol that has none. -/
def canonicalCodes (lens : List CodeLen) : List (Option Nat) := assignCodes lens (0 :: nextCodes lens 15 1 0)

/-! ### The chunk checksum of a byte sequence (43_crc32.md R220) -/

/-- `crc32(m)`. -/
def crc32 (m : List Byte) : Word := m.foldl crcByte 0xFFFFFFFF ^^^ 0xFFFFFFFF

/-- `BYTE(b)` for every byte of a sequence, one command after the other. -/
def crcFeed : List Byte → State → Option State
  | [], s => some s
  | b :: bs, s =>
    match exec (.byte b) s with
    | .next t => crcFeed bs t
    | .fault _ | .refused _ => none

end Sys2Proof.Machine
end

