-- ==== Sys2Proof/Certificates/Slice0/Obligations.lean ====
section
/-! DEFINITION. The statements for the provers. Each says in its docstring what it states and which rules of spec/ it
rests on. A fault is a next state whose registers are those of `Inf.stopped`, `Inf.stoppedAt` or `Dfl.stopped`. -/

section Slice0Statements

open Sys2Proof Sys2Proof.Machine

/-- For every context, every well-formed instruction that can stand in it (a Huffman-coded one needs a code in the set
in force, which is not over-subscribed) and every bits after it: decoding its encoding followed by those bits
gives the instruction and leaves exactly those bits. (R90, R91, R92, R93, R94, R95, R96, R97, R98, R99, R103,
R104.) -/
def Obligations.DecodeOfEncode : Prop :=
  ∀ (c : Ctx) (i : Instr) (rest : List Bool),
    i.wellFormed = true → encodable c i = true → classify c.lens ≠ .overSubscribed →
    decode c (encode c i ++ rest) = .ok (i, rest)

/-- For every context but a register write (whose unlisted bits are ignored) and every bits the decoder accepts: the
instruction it gives is well-formed and can stand in the context, and its encoding followed by the bits left over
is the bits given, with 0 in place of the pad bits before a stored block or a trailer (which may have any value).
In phase DYNCLEN the count of lengths is 4 to 19. (R64, R90, R91, R92, R93, R94, R95, R96, R97, R98, R99, R104.) -/
def Obligations.EncodeOfDecode : Prop :=
  ∀ (c : Ctx) (i : Instr) (bits rest : List Bool),
    (∀ u n, c ≠ .reg u n) → (∀ n, c = .dynclen n → 4 ≤ n ∧ n ≤ 19) → decode c bits = .ok (i, rest) →
    i.wellFormed = true ∧ encodable c i = true ∧
    encode c i ++ rest = List.replicate c.pad false ++ bits.drop c.pad

/-- In a set of code lengths that is not over-subscribed no symbol's code is a prefix of another's. When the set is
complete and at least 15 bits remain, the Huffman decoder never fails: it returns a symbol that has a code, and
the bits are that code followed by the bits left over. (R102, R103, R104.) -/
def Obligations.CodesFormAPrefixCode : Prop :=
  (∀ (lens : List CodeLen) (s t : Nat),
    classify lens ≠ .overSubscribed → lens.getD s 0 ≠ 0 → lens.getD t 0 ≠ 0 →
    codeBits lens s <+: codeBits lens t → s = t) ∧
  ∀ (lens : List CodeLen) (bits : List Bool),
    classify lens = .complete → 15 ≤ bits.length →
    ∃ s rest, huff lens bits = .ok (s, rest) ∧ s < lens.length ∧ lens.getD s 0 ≠ 0 ∧ bits = codeBits lens s ++ rest

/-- For every set of code lengths: it is over-subscribed exactly if the sum of 2^(15 - length) over its non-zero
entries exceeds 32768, complete exactly if the sum is 32768, incomplete exactly if it is less; and the loops of
R103 give a symbol of length 0 no code, and every other symbol the number the decoder's codeOf gives in closed
form. (R102, R103.) -/
def Obligations.CanonicalCodesOfASet : Prop :=
  ∀ lens : List CodeLen,
    (classify lens = .overSubscribed ↔ 32768 < kraftSum lens) ∧
    (classify lens = .complete ↔ kraftSum lens = 32768) ∧
    (classify lens = .incomplete ↔ kraftSum lens < 32768) ∧
    ∀ s < lens.length,
      (canonicalCodes lens)[s]? = some (if lens.getD s 0 = 0 then none else some (codeOf lens s))

/-- The bytes 78 9C are ZHDR; the bits 1, 1, 0 are BLK.FIXED with BFINAL = 1; HLIT = 1, HDIST = 1, HCLEN = 14 are
DYNHDR; in the fixed code 10010001 is the literal a, 0000111 is LEN263, 00100 with the extra bit 1 is DIST4; the
filter byte 4 is FT4; a write of 1 to CRC_CTRL is INIT, of 2 to DEF_CTRL is DEF.RESET. (R91, R92, R94, R97, R98,
R99, R107, R108.) -/
def Obligations.WordsOfEveryUnitDecode : Prop :=
  decode .zhdr [false, false, false, true, true, true, true, false, false, false, true, true, true, false, false, true]
    = .ok (.zhdr 0x78 0x9C, []) ∧
  decode .blkhdr [true, true, false] = .ok (.blkFixed true, []) ∧
  decode .dynhdr [true, false, false, false, false, true, false, false, false, false, false, true, true, true]
    = .ok (.dynhdr 1 1 14, []) ∧
  decode (.sym fixedLlLen) [true, false, false, true, false, false, false, true] = .ok (.lit 0x61, []) ∧
  decode (.sym fixedLlLen) [false, false, false, false, true, true, true] = .ok (.len263, []) ∧
  decode (.dist fixedDLen) [false, false, true, false, false, true] = .ok (.dist4 1, []) ∧
  decode .row [false, false, true, false, false, false, false, false] = .ok (.ft4, []) ∧
  decode (.reg .crc 0) (true :: List.replicate 31 false) = .ok (.init, []) ∧
  decode (.reg .dfl 0) (false :: true :: List.replicate 30 false) = .ok (.defReset, [])

/-- With bitpos <= 8 * IN_LEN, reading an n-bit field from the bits that remain in IN gives nothing when bitpos + n >
8 * IN_LEN; otherwise it gives the sum of bit(bitpos + i) * 2^i, where bit(k) is bit k mod 8 of IN[k div 8], and
leaves the bits that remain after bitpos + n. (R25, R61, R62, R66.) -/
def Obligations.FieldReadIsGetbits : Prop :=
  ∀ (n : Nat) (u : Inf), u.bitpos ≤ 8 * u.inLen →
    takeBits n u.stream =
      if 8 * u.inLen < u.bitpos + n then none
      else some (((List.range n).map fun i =>
          ((u.inByte ((u.bitpos + i) / 8)).toNat >>> ((u.bitpos + i) % 8)) % 2 * 2 ^ i).sum, (u.advance n).stream)

/-- The aligned bit position is ((bitpos + 7) div 8) * 8; if bitpos <= 8 * IN_LEN then so is it; and what a stored
block or a trailer decodes to does not depend on the bits skipped. (R67.) -/
def Obligations.AlignSkipsUnexaminedBits : Prop :=
  ∀ b : Nat,
    alignUp b = (b + 7) / 8 * 8 ∧ (∀ n, b ≤ 8 * n → alignUp b ≤ 8 * n) ∧
    ∀ p q bits : List Bool, p.length = padBits b → q.length = padBits b →
      decode (.stored (padBits b)) (p ++ bits) = decode (.stored (padBits b)) (q ++ bits) ∧
      decode (.trailer (padBits b)) (p ++ bits) = decode (.trailer (padBits b)) (q ++ bits)

/-- With INF's turn next on the agenda and the remaining bits decoding, in the context of the phase, to an
instruction, the step is exec of it on the state with the turn taken off; if it is the length half of a match, the
distance half its following bits decode to runs in the same step. With DEF's turn next and DEF in ROW, the step is
exec of the scanline the byte at ipos decodes to, or of DEF.END when pass = NPASS. With a host write next whose
value is a command of its register, the step is exec of that command. Around each stands only the check of a
finite CNT_W. The agenda and the two halves are the model's (log entries 1, 2). (R11, R20, R22, R44, R107, R108,
R111, R191, R243, R251.) -/
def Obligations.StepRunsTheDecodedInstruction : Prop :=
  (∀ (s : State) (rest : List Event) (c : Ctx) (i : Instr) (bits : List Bool),
    s.agenda = .unit .inf :: rest → s.inf.ctx = some c → decode c s.inf.stream = .ok (i, bits) →
    ((∀ t, exec i { s with agenda := rest } = .next t → t.inf.matchLen = none) →
      step s = guardWidth (exec i { s with agenda := rest })) ∧
    ∀ (t : State) (c' : Ctx) (j : Instr) (bits' : List Bool),
      exec i { s with agenda := rest } = .next t → t.inf.matchLen ≠ none → t.inf.ctx = some c' →
      decode c' t.inf.stream = .ok (j, bits') → step s = guardWidth (exec j t)) ∧
  (∀ (s : State) (rest : List Event) (i : Instr) (bits : List Bool),
    s.agenda = .unit .dfl :: rest → s.dfl.dphase = .row → s.dfl.pass ≤ s.dfl.npass.toNat →
    decode (if s.dfl.pass < s.dfl.npass.toNat then .row else .defEnd) s.dfl.stream = .ok (i, bits) →
    step s = guardWidth (exec i { s with agenda := rest })) ∧
  ∀ (s : State) (rest : List Event) (u : UnitId) (n v : Nat) (i : Instr) (bits : List Bool),
    s.agenda = .host (.write u n v) :: rest → decode (.reg u n) (fieldBits 32 v) = .ok (i, bits) →
    step s = guardWidth (exec i { s with agenda := rest })

/-- When the bits at bitpos decode to nothing, INF's turn takes UnexpectedEof (2) if they ran out and
InvalidDeflateStream (16) if no code matched; the same when the distance half of a match decodes to nothing, and
then the whole match is undone. InvalidDeflateStream also where CL16 comes first with its extra bits missing (the
order of R283, log entry 17) and, the model's choice, where the symbol decoded is beyond the alphabet, which no
context of a run gives (noSymbol, log entry 17). The premise that no match is half done is about the model's own
field (log entry 2). (R66, R104, R159, R196, R271, R274, R280, R283.) -/
def Obligations.RejectedBitsFault : Prop :=
  ∀ s : State, s.inf.matchLen = none →
    (∀ c r, s.inf.ctx = some c → decode c s.inf.stream = .error r →
      infTurn s = .next { s with inf := s.inf.stopped (if r = .endOfInput then 2 else 16) }) ∧
    ∀ i rest sym k x r, s.inf.phase = .sym → decode (.sym s.inf.llLen) s.inf.stream = .ok (i, rest) →
      i.coded = some ⟨.literalLength, sym, k, x⟩ → 257 ≤ sym → sym ≤ 285 →
      decode (.dist s.inf.dLen) rest = .error r →
      infTurn s = .next { s with inf := s.inf.stopped (if r = .endOfInput then 2 else 16) }

/-- The turn of INF in IDLE, DONE or FAULT (with no match half done, which is the model's field, log entry 2), the
turn of DEF outside ROW, and every turn of CRC leave the whole state as it is (log entry 15). (R22, R295.) -/
def Obligations.QuiescentUnitsDoNotMove : Prop :=
  ∀ s : State,
    (s.inf.phase.running = false → s.inf.matchLen = none → infTurn s = .next s) ∧
    (s.dfl.dphase ≠ .row → dflTurn s = .next s) ∧ unitTurn .crc s = .next s

/-- With 16 bits left: if CM = 8, CINFO <= 7, CMF * 256 + FLG is a multiple of 31 and FDICT = 0, ZHDR ends in BLKHDR
16 bits on with every other register of the machine unchanged; otherwise it takes InvalidCompressedHeader (15).
With fewer bits it takes UnexpectedEof (2). (R91, R130, R134, R280.) -/
def Obligations.ZlibHeaderCheck : Prop :=
  ∀ (cmf flg : Byte) (s : State),
    (s.inf.bitpos + 16 ≤ 8 * s.inf.inLen →
      cmf.toNat % 16 = 8 → cmf.toNat / 16 ≤ 7 → (cmf.toNat * 256 + flg.toNat) % 31 = 0 → flg.toNat / 32 % 2 = 0 →
      exec (.zhdr cmf flg) s = .next { s with inf := { s.inf.consumed 16 with phase := .blkhdr } }) ∧
    (s.inf.bitpos + 16 ≤ 8 * s.inf.inLen →
      ¬ (cmf.toNat % 16 = 8 ∧ cmf.toNat / 16 ≤ 7 ∧ (cmf.toNat * 256 + flg.toNat) % 31 = 0 ∧ flg.toNat / 32 % 2 = 0) →
      exec (.zhdr cmf flg) s = .next { s with inf := s.inf.stopped 15 }) ∧
    (8 * s.inf.inLen < s.inf.bitpos + 16 → exec (.zhdr cmf flg) s = .next { s with inf := s.inf.stopped 2 })

/-- Let p be the first byte boundary at or after bitpos. If p + 32 bits are not there, ZTRAILER takes UnexpectedEof
(2); else if T differs from s2 * 2^16 + s1, DecompressionChecksumMismatch (17); else if out_count < EXPECT_LEN,
IncompleteImageData (18); else if out_count > EXPECT_LEN, ExcessImageData (32); else if bytes remain after the
trailer, TrailingCompressedData (33); else the unit is DONE at p + 32 with BUSY 0, DONE 1, OUT_VALID 1. Nothing
else of the machine changes. (R131, R134, R276, R278, R280, R283.) -/
def Obligations.TrailerVerdict : Prop :=
  ∀ (T : Word) (s : State),
    exec (.ztrailer T) s = .next { s with inf :=
      if 8 * s.inf.inLen < (s.inf.bitpos + 7) / 8 * 8 + 32 then s.inf.stopped 2
      else if T.toNat ≠ s.inf.s2.toNat * 65536 + s.inf.s1.toNat then s.inf.stopped 17
      else if s.inf.outCount < s.inf.expectLen then s.inf.stopped 18
      else if s.inf.expectLen < s.inf.outCount then s.inf.stopped 32
      else if ((s.inf.bitpos + 7) / 8 * 8 + 32) / 8 < s.inf.inLen then s.inf.stopped 33
      else { s.inf with
        elemStart := s.inf.bitpos, bitpos := (s.inf.bitpos + 7) / 8 * 8 + 32
        phase := .done, flags := ⟨false, true, false, true⟩ } }

/-- With 3 bits left, a block header with BTYPE = 00 latches bfinal and btype, consumes 3 bits and sets phase to
STORED, so that the next element is a stored body; with BTYPE = 10 the same and phase DYNHDR, so that the next
element is the dynamic header; with BTYPE = 11 it takes InvalidDeflateStream (16) with bfinal and btype as they
were. Nothing else of the machine changes. (R151, R153, R154.) -/
def Obligations.BlockHeaders : Prop :=
  ∀ (bfinal : Bool) (s : State), s.inf.bitpos + 3 ≤ 8 * s.inf.inLen →
    (∃ t, exec (.blkStored bfinal) s = .next t ∧
      t = { s with inf := { s.inf.consumed 3 with bfinal := bfinal, btype := 0, phase := .stored } } ∧
      (s.inf.matchLen = none → t.inf.ctx = some (.stored (padBits (s.inf.bitpos + 3))))) ∧
    (∃ t, exec (.blkDyn bfinal) s = .next t ∧
      t = { s with inf := { s.inf.consumed 3 with bfinal := bfinal, btype := 2, phase := .dynhdr } } ∧
      (s.inf.matchLen = none → t.inf.ctx = some .dynhdr)) ∧
    exec (.blkRsv bfinal) s = .next { s with inf := s.inf.stopped 16 }

/-- With 3 bits left, a block header with BTYPE = 01 latches bfinal and btype, loads length 8 for symbols 0 to 143, 9
for 144 to 255, 7 for 256 to 279, 8 for 280 to 287 and 5 for all 32 distance symbols, and sets phase to SYM in the
same step; both sets are complete and symbol 256 has a code; nothing else of the machine changes. (R152.) -/
def Obligations.FixedBlockHeader : Prop :=
  ∀ (bfinal : Bool) (s : State), s.inf.bitpos + 3 ≤ 8 * s.inf.inLen →
    ∃ ll d : List CodeLen,
      exec (.blkFixed bfinal) s = .next { s with inf :=
        { s.inf.consumed 3 with bfinal := bfinal, btype := 1, llLen := ll, dLen := d, phase := .sym } } ∧
      ll.length = 288 ∧ d.length = 32 ∧
      (∀ k < 288, ll.getD k 0 = if k < 144 then 8 else if k < 256 then 9 else if k < 280 then 7 else 8) ∧
      (∀ k < 32, d.getD k 0 = 5) ∧
      classify ll = .complete ∧ classify d = .complete ∧ ll.getD 256 0 ≠ 0

/-- If the 32 bits of the pair are there after the alignment, LEN and NLEN are complements and LEN bytes follow them,
STORED emits those bytes of IN in order (into OUT, WIN and the checksum), leaves bitpos after them, and goes to
TRAILER if bfinal is 1, else to BLKHDR; nothing else changes. If the pair is not there it takes UnexpectedEof (2);
if it is no pair of complements, InvalidDeflateStream (16), also when the body is short; if only the body is
short, UnexpectedEof (2). After a fault OUT is as before (the model's choice, log entry 12). (R68, R155, R165,
R190, R280, R283.) -/
def Obligations.StoredBlock : Prop :=
  ∀ (len nlen : BitVec 16) (s : State),
    ((s.inf.bitpos + 7) / 8 * 8 + 32 ≤ 8 * s.inf.inLen → len ^^^ nlen = 0xFFFF →
      (s.inf.bitpos + 7) / 8 + 4 + len.toNat ≤ s.inf.inLen →
      ∃ v, Inf.emitted ((List.range len.toNat).map fun k => s.inf.inByte ((s.inf.bitpos + 7) / 8 + 4 + k)) s.inf v ∧
        exec (.stored len nlen) s = .next { s with inf := { v with
          elemStart := s.inf.bitpos, bitpos := ((s.inf.bitpos + 7) / 8 + 4 + len.toNat) * 8
          phase := if s.inf.bfinal then .trailer else .blkhdr } }) ∧
    (8 * s.inf.inLen < (s.inf.bitpos + 7) / 8 * 8 + 32 →
      exec (.stored len nlen) s = .next { s with inf := s.inf.stopped 2 }) ∧
    ((s.inf.bitpos + 7) / 8 * 8 + 32 ≤ 8 * s.inf.inLen → len ^^^ nlen ≠ 0xFFFF →
      exec (.stored len nlen) s = .next { s with inf := s.inf.stopped 16 }) ∧
    ((s.inf.bitpos + 7) / 8 * 8 + 32 ≤ 8 * s.inf.inLen → len ^^^ nlen = 0xFFFF →
      s.inf.inLen < (s.inf.bitpos + 7) / 8 + 4 + len.toNat →
      exec (.stored len nlen) s = .next { s with inf := s.inf.stopped 2 })

/-- With 14 bits left: if HLIT + 257 <= 286 and HDIST + 1 <= 30, DYNHDR sets nlen, ndist, ncode, clears the three
length arrays and lidx, and goes to DYNCLEN 14 bits on; otherwise it takes InvalidDeflateStream (16). With fewer
bits it takes UnexpectedEof (2). (R94, R156.) -/
def Obligations.DynamicHeaderCounts : Prop :=
  ∀ (hlit hdist : BitVec 5) (hclen : BitVec 4) (s : State),
    (s.inf.bitpos + 14 ≤ 8 * s.inf.inLen → hlit.toNat + 257 ≤ 286 → hdist.toNat + 1 ≤ 30 →
      exec (.dynhdr hlit hdist hclen) s = .next { s with inf := { s.inf.consumed 14 with
        nlen := hlit.toNat + 257, ndist := hdist.toNat + 1, ncode := hclen.toNat + 4
        llLen := List.replicate 288 0, dLen := List.replicate 32 0, clLen := List.replicate 19 0
        lidx := 0, phase := .dynclen } }) ∧
    (s.inf.bitpos + 14 ≤ 8 * s.inf.inLen → 286 < hlit.toNat + 257 ∨ 30 < hdist.toNat + 1 →
      exec (.dynhdr hlit hdist hclen) s = .next { s with inf := s.inf.stopped 16 }) ∧
    (8 * s.inf.inLen < s.inf.bitpos + 14 →
      exec (.dynhdr hlit hdist hclen) s = .next { s with inf := s.inf.stopped 2 })

/-- Let cl be the code-length-code lengths after each transmitted length is put at its CLORD place. With the bits
there: if the Kraft sum of cl is 32768, CLENS stores cl and goes to DYNLENS; otherwise (over-subscribed or
incomplete) it takes InvalidDeflateStream (16). With fewer bits it takes UnexpectedEof (2). (R95, R102, R157.) -/
def Obligations.CodeLengthCodeIsChecked : Prop :=
  ∀ (lens : List (BitVec 3)) (s : State) (cl : List CodeLen),
    lens.length ≤ 19 → s.inf.clLen.length = 19 → cl.length = 19 →
    (∀ k < 19, cl.getD (clOrder.getD k 0) 0 =
      if k < lens.length then (lens.getD k 0).setWidth 4 else s.inf.clLen.getD (clOrder.getD k 0) 0) →
    (s.inf.bitpos + 3 * lens.length ≤ 8 * s.inf.inLen → kraftSum cl = 32768 →
      exec (.clens lens) s =
        .next { s with inf := { s.inf.consumed (3 * lens.length) with clLen := cl, phase := .dynlens } }) ∧
    (s.inf.bitpos + 3 * lens.length ≤ 8 * s.inf.inLen → kraftSum cl ≠ 32768 →
      exec (.clens lens) s = .next { s with inf := s.inf.stopped 16 }) ∧
    (8 * s.inf.inLen < s.inf.bitpos + 3 * lens.length →
      exec (.clens lens) s = .next { s with inf := s.inf.stopped 2 })

/-- For every code-length element with its bits left and more lengths to come after it: CLv (v <= 15) writes v to
entry lidx of the sequence of literal/length and distance lengths and adds 1 to lidx; CL16 with extra value x (a
previous length existing) writes seq(lidx - 1) to the 3 + x entries from lidx on and adds 3 + x; CL17 adds 3 + x
and CL18 adds 11 + x, writing no entry. Every other entry and everything else of the machine is unchanged, but for
the cursor. (R23, R96, R109, R158, R159, R160, R161.) -/
def Obligations.CodeLengthsAreAppended : Prop :=
  ∀ (i : Instr) (sym k x r : Nat) (p : CodeLen) (s : State) (ll d : List CodeLen),
    i.coded = some ⟨.codeLength, sym, k, x⟩ →
    (r = if sym < 16 then 1 else if sym = 16 then 3 + x else if sym = 17 then 3 + x else 11 + x) →
    (p = if sym < 16 then BitVec.ofNat 4 sym else s.inf.seqLen (s.inf.lidx - 1)) →
    s.inf.bitpos + (s.inf.clLen.getD sym 0).toNat + k ≤ 8 * s.inf.inLen → (sym = 16 → s.inf.lidx ≠ 0) →
    s.inf.lidx + r < s.inf.nlen + s.inf.ndist →
    s.inf.llLen.length = 288 → s.inf.dLen.length = 32 → ll.length = 288 → d.length = 32 →
    (∀ j < 288, ll.getD j 0 =
      if sym ≤ 16 ∧ s.inf.lidx ≤ j ∧ j < s.inf.lidx + r ∧ j < s.inf.nlen then p else s.inf.llLen.getD j 0) →
    (∀ j < 32, d.getD j 0 =
      if sym ≤ 16 ∧ s.inf.lidx ≤ s.inf.nlen + j ∧ s.inf.nlen + j < s.inf.lidx + r then p else s.inf.dLen.getD j 0) →
    exec i s = .next { s with inf := { s.inf.consumed ((s.inf.clLen.getD sym 0).toNat + k) with
      lidx := s.inf.lidx + r, llLen := ll, dLen := d } }

/-- For every code-length element (CL0 to CL18) that brings lidx to nlen + ndist, with its bits left: let ll and d be
the arrays with its entries written (one of value v for CLv, v <= 15; copies of seq(lidx - 1) for CL16; none for
CL17 and CL18). If symbol 256 has a code, ll is complete, and d is complete or, under rfc, empty or a single code
of length 1, the arrays are stored and phase becomes SYM; otherwise the step takes InvalidDeflateStream (16).
TABLES, which the model also has as an instruction of its own (log entry 3), does the same with the arrays as they
stand and consumes nothing. (R158, R159, R160, R161, R162, R163, R164.) -/
def Obligations.TableCompletion : Prop :=
  (∀ (i : Instr) (sym k x r : Nat) (p : CodeLen) (s : State) (ll d : List CodeLen),
    i.coded = some ⟨.codeLength, sym, k, x⟩ →
    (r = if sym < 16 then 1 else if sym = 16 then 3 + x else if sym = 17 then 3 + x else 11 + x) →
    (p = if sym < 16 then BitVec.ofNat 4 sym else s.inf.seqLen (s.inf.lidx - 1)) →
    s.inf.bitpos + (s.inf.clLen.getD sym 0).toNat + k ≤ 8 * s.inf.inLen → (sym = 16 → s.inf.lidx ≠ 0) →
    s.inf.lidx + r = s.inf.nlen + s.inf.ndist →
    s.inf.llLen.length = 288 → s.inf.dLen.length = 32 → ll.length = 288 → d.length = 32 →
    (∀ j < 288, ll.getD j 0 =
      if sym ≤ 16 ∧ s.inf.lidx ≤ j ∧ j < s.inf.lidx + r ∧ j < s.inf.nlen then p else s.inf.llLen.getD j 0) →
    (∀ j < 32, d.getD j 0 =
      if sym ≤ 16 ∧ s.inf.lidx ≤ s.inf.nlen + j ∧ s.inf.nlen + j < s.inf.lidx + r then p else s.inf.dLen.getD j 0) →
    (tablesAccepted s.params.incomplete ll d →
      exec i s = .next { s with inf := { s.inf.consumed ((s.inf.clLen.getD sym 0).toNat + k) with
        lidx := s.inf.lidx + r, llLen := ll, dLen := d, phase := .sym } }) ∧
    (¬ tablesAccepted s.params.incomplete ll d → exec i s = .next { s with inf := s.inf.stopped 16 })) ∧
  ∀ s : State,
    (tablesAccepted s.params.incomplete s.inf.llLen s.inf.dLen →
      exec .tables s = .next { s with inf := { s.inf with elemStart := s.inf.bitpos, phase := .sym } }) ∧
    (¬ tablesAccepted s.params.incomplete s.inf.llLen s.inf.dLen →
      exec .tables s = .next { s with inf := s.inf.stopped 16 })

/-- For every code-length element (CL0 to CL18): with fewer bits left than its code it takes UnexpectedEof (2); CL16
with its code there and lidx = 0 takes InvalidDeflateStream (16) whether or not its extra bits are there; with a
code but not all extra bits left (and, for CL16, lidx > 0) it takes UnexpectedEof; CL16 (lidx > 0), CL17 and CL18
whose count runs past nlen + ndist take InvalidDeflateStream. (R158, R159, R160, R161, R280, R283.) -/
def Obligations.CodeLengthElementFaults : Prop :=
  ∀ (i : Instr) (sym k x : Nat) (s : State), i.coded = some ⟨.codeLength, sym, k, x⟩ →
    (8 * s.inf.inLen < s.inf.bitpos + (s.inf.clLen.getD sym 0).toNat →
      exec i s = .next { s with inf := s.inf.stopped 2 }) ∧
    (sym = 16 → s.inf.bitpos + (s.inf.clLen.getD sym 0).toNat ≤ 8 * s.inf.inLen → s.inf.lidx = 0 →
      exec i s = .next { s with inf := s.inf.stopped 16 }) ∧
    ((sym = 16 → s.inf.lidx ≠ 0) → 8 * s.inf.inLen < s.inf.bitpos + (s.inf.clLen.getD sym 0).toNat + k →
      exec i s = .next { s with inf := s.inf.stopped 2 }) ∧
    (16 ≤ sym → (sym = 16 → s.inf.lidx ≠ 0) →
      s.inf.bitpos + (s.inf.clLen.getD sym 0).toNat + k ≤ 8 * s.inf.inLen →
      s.inf.nlen + s.inf.ndist < s.inf.lidx + ((if sym = 18 then 11 else 3) + x) →
      exec i s = .next { s with inf := s.inf.stopped 16 })

/-- With its code's bits left, LIT(v) consumes the code and emits v: OUT[out_count] and WIN[out_count mod 32768]
become v and no other byte of either changes, s1 and s2 are updated with v, out_count grows by 1, and phase stays.
EOB consumes its code and sets phase to TRAILER if bfinal = 1 and to BLKHDR otherwise, with no output, no checksum
and no alignment. Every other register, space and unit is unchanged. (R132, R165, R190, R192, R193.) -/
def Obligations.LiteralAndEndOfBlock : Prop :=
  (∀ (v : Byte) (s : State), s.inf.bitpos + (s.inf.llLen.getD v.toNat 0).toNat ≤ 8 * s.inf.inLen →
    ∃ w, Inf.emitted [v] s.inf w ∧
      exec (.lit v) s = .next { s with inf := w.consumed (s.inf.llLen.getD v.toNat 0).toNat }) ∧
  ∀ s : State, s.inf.bitpos + (s.inf.llLen.getD 256 0).toNat ≤ 8 * s.inf.inLen →
    exec .eob s = .next { s with inf := { s.inf.consumed (s.inf.llLen.getD 256 0).toNat with
      phase := if s.inf.bfinal then .trailer else .blkhdr } }

/-- For each of LEN257 to LEN285 with extra value x: the base and extra bits give a length of 3 to 258, and with the
bits of the code and the extra bits left the instruction consumes them and hands the length to the distance half;
nothing else of the machine changes. That a match is two instructions run in one step is the model's form (log
entry 2). (R98, R100, R109, R194, R201.) -/
def Obligations.MatchLengthHalf : Prop :=
  ∀ (i : Instr) (sym k x : Nat) (s : State),
    i.coded = some ⟨.literalLength, sym, k, x⟩ → 257 ≤ sym → sym ≤ 285 →
    3 ≤ lenBase sym + x ∧ lenBase sym + x ≤ 258 ∧
    (s.inf.bitpos + (s.inf.llLen.getD sym 0).toNat + k ≤ 8 * s.inf.inLen →
      exec i s = .next { s with inf :=
        { s.inf.consumed ((s.inf.llLen.getD sym 0).toNat + k) with matchLen := some (lenBase sym + x) } })

/-- For each of DIST0 to DIST29 with extra value x, dist = base + x is 1 to 32768. With the length len handed over,
the bits of the code and extra bits left, the window a view of the output (the invariant of R51) and dist <=
out_count, the instruction consumes the bits and emits len bytes, byte k being OUT[out_count - dist + (k mod
dist)] of the output before; with dist > out_count it takes InvalidDeflateStream (16) at the match's first bit.
Nothing else of the machine changes. (R99, R100, R194, R198, R199, R200, R201.) -/
def Obligations.MatchDistanceHalf : Prop :=
  ∀ (i : Instr) (t k x len : Nat) (s : State),
    i.coded = some ⟨.distance, t, k, x⟩ → t < 30 →
    1 ≤ distBase t + x ∧ distBase t + x ≤ 32768 ∧
    (s.inf.matchLen = some len → s.inf.windowInv →
      s.inf.bitpos + (s.inf.dLen.getD t 0).toNat + k ≤ 8 * s.inf.inLen →
      (distBase t + x ≤ s.inf.outCount →
        ∃ v, Inf.emitted ((List.range len).map fun j =>
            s.inf.outByte (s.inf.outCount - (distBase t + x) + j % (distBase t + x))) s.inf v ∧
          exec i s = .next { s with inf := { v with
            bitpos := s.inf.bitpos + ((s.inf.dLen.getD t 0).toNat + k), matchLen := none } }) ∧
      (s.inf.outCount < distBase t + x →
        exec i s = .next { s with inf := s.inf.stoppedAt 16 s.inf.elemStart }))

/-- In phase SYM, when the bits decode to a length symbol and those after it to a distance symbol: if the distance
symbol is at most 29 and the distance at most out_count, INF's turn emits the cyclic copy and moves bitpos past
both halves, with elem_start at the first bit; if the distance symbol is 30 or 31, or the distance exceeds
out_count, it takes InvalidDeflateStream (16) with every register as the step found it. Premises: the window is a
view of the output (R51) and no match is half done (log entry 2). (R11, R100, R191, R194, R197, R198, R199, R280,
R283.) -/
def Obligations.MatchIsOneStep : Prop :=
  ∀ (s : State) (i j : Instr) (rest1 rest2 : List Bool) (sym t k1 k2 x y : Nat),
    s.inf.phase = .sym → s.inf.matchLen = none → s.inf.windowInv →
    decode (.sym s.inf.llLen) s.inf.stream = .ok (i, rest1) → i.coded = some ⟨.literalLength, sym, k1, x⟩ →
    257 ≤ sym → sym ≤ 285 →
    decode (.dist s.inf.dLen) rest1 = .ok (j, rest2) → j.coded = some ⟨.distance, t, k2, y⟩ →
    (t < 30 → distBase t + y ≤ s.inf.outCount →
      ∃ v, Inf.emitted ((List.range (lenBase sym + x)).map fun n =>
          s.inf.outByte (s.inf.outCount - (distBase t + y) + n % (distBase t + y))) s.inf v ∧
        infTurn s = .next { s with inf := v.consumed (s.inf.stream.length - rest2.length) }) ∧
    (30 ≤ t ∨ s.inf.outCount < distBase t + y → infTurn s = .next { s with inf := s.inf.stopped 16 })

/-- With the bits of the code left, literal/length symbols 286 and 287 take InvalidDeflateStream (16) at their first
bit, and distance symbols 30 and 31 take it at the first bit of the match they stand in; in the fixed sets their
codes are 11000110, 11000111, 11110 and 11111. Every literal/length symbol with fewer bits left than its code and
extra bits takes UnexpectedEof (2) at its first bit, every distance symbol at the first bit of the match. Nothing
else of the machine changes. That a match is two instructions, so that its first bit is the elem_start the length
half left, is the model's form (log entry 2). (R66, R192, R193, R194, R195, R197, R271, R280.) -/
def Obligations.SymbolFaults : Prop :=
  (∀ (i : Instr) (sym : Nat) (s : State), (i, sym) ∈ [(Instr.rsv286, 286), (.rsv287, 287)] →
    s.inf.bitpos + (s.inf.llLen.getD sym 0).toNat ≤ 8 * s.inf.inLen →
    exec i s = .next { s with inf := s.inf.stopped 16 }) ∧
  (∀ (i : Instr) (t : Nat) (s : State), (i, t) ∈ [(Instr.rsv30, 30), (.rsv31, 31)] →
    s.inf.bitpos + (s.inf.dLen.getD t 0).toNat ≤ 8 * s.inf.inLen →
    exec i s = .next { s with inf := s.inf.stoppedAt 16 s.inf.elemStart }) ∧
  codeBits fixedLlLen 286 = [true, true, false, false, false, true, true, false] ∧
  codeBits fixedLlLen 287 = [true, true, false, false, false, true, true, true] ∧
  codeBits fixedDLen 30 = [true, true, true, true, false] ∧ codeBits fixedDLen 31 = [true, true, true, true, true] ∧
  ∀ (i : Instr) (sym k x : Nat) (s : State),
    (i.coded = some ⟨.literalLength, sym, k, x⟩ →
      8 * s.inf.inLen < s.inf.bitpos + (s.inf.llLen.getD sym 0).toNat + k →
      exec i s = .next { s with inf := s.inf.stopped 2 }) ∧
    (i.coded = some ⟨.distance, sym, k, x⟩ →
      8 * s.inf.inLen < s.inf.bitpos + (s.inf.dLen.getD sym 0).toNat + k →
      exec i s = .next { s with inf := s.inf.stoppedAt 2 s.inf.elemStart })

/-- INIT outside FAULT sets crc to 0xFFFFFFFF, cnt and tag to 0, cstate to ACCUM, ACTIVE to 1, MATCH to 0. In ACCUM,
BYTE(b) replaces crc by crc_byte(crc, b), adds 1 to cnt and, while fewer than four bytes were fed, puts b into its
place of tag; CHECK(e) with e = crc xor 0xFFFFFFFF sets cstate to MATCH, ACTIVE to 0, MATCH to 1, and with any
other e takes ChunkChecksumMismatch: CRC_ERR 3, CRC_ERR_INFO the tag, cstate FAULT, FAULT 1, ACTIVE and MATCH 0.
Elsewhere each changes nothing. Nothing else of the machine changes. (R27, R42, R108, R220, R221, R222, R223,
R280, R285.) -/
def Obligations.CrcCommands : Prop :=
  ∀ (b : Byte) (e : Word) (s : State),
    (s.crc.cstate ≠ .fault → exec .init s = .next { s with crc := { s.crc with
      reg := 0xFFFFFFFF, cnt := 0, tag := 0, cstate := .accum, active := true, matched := false } }) ∧
    (s.crc.cstate = .fault → exec .init s = .next s) ∧
    (s.crc.cstate = .accum → exec (.byte b) s = .next { s with crc := { s.crc with
      tag := if s.crc.cnt < 4 then s.crc.tag ||| (b.setWidth 32 <<< (8 * (3 - s.crc.cnt))) else s.crc.tag
      reg := crcByte s.crc.reg b, cnt := s.crc.cnt + 1 } }) ∧
    (s.crc.cstate ≠ .accum → exec (.byte b) s = .next s) ∧
    (s.crc.cstate = .accum → s.crc.reg ^^^ 0xFFFFFFFF = e →
      exec (.check e) s = .next { s with crc := { s.crc with cstate := .matched, active := false, matched := true } }) ∧
    (s.crc.cstate = .accum → s.crc.reg ^^^ 0xFFFFFFFF ≠ e →
      exec (.check e) s = .next { s with crc := { s.crc with
        err := 3, errInfo := s.crc.tag, cstate := .fault, active := false, matched := false, fault := true } }) ∧
    (s.crc.cstate ≠ .accum → exec (.check e) s = .next s)

/-- From any state whose CRC is not in FAULT, for every byte sequence m: after INIT and BYTE for each byte of m the
unit has counted the bytes, holds the first four of them in tag (first byte on top), and CHECK(e) then ends in
MATCH if e = crc32(m) and in FAULT otherwise; INF and DEF are unchanged. (R108, R220, R222, R223.) -/
def Obligations.CrcOfAChunk : Prop :=
  ∀ (m : List Byte) (e : Word) (s t : State),
    s.crc.cstate ≠ .fault → exec .init s = .next t →
    ∃ r q, crcFeed m t = some r ∧ r.crc.cnt = m.length ∧
      r.crc.tag.toNat = (m.getD 0 0).toNat * 2 ^ 24 + (m.getD 1 0).toNat * 2 ^ 16 + (m.getD 2 0).toNat * 2 ^ 8
        + (m.getD 3 0).toNat ∧
      exec (.check e) r = .next q ∧ q.crc.cstate = (if e = crc32 m then .matched else .fault) ∧
      q.inf = s.inf ∧ q.dfl = s.dfl

/-- A read of CRC_VALUE returns crc xor 0xFFFFFFFF in every state and changes nothing but the host's own data; after
INIT and any bytes it returns the checksum of those bytes; after a reset of CRC it returns 0. (R224.) -/
def Obligations.CrcValueRegister : Prop :=
  (∀ s : State, hostTurn (.read .crc 6) s = .next { s with hostData := (s.crc.reg ^^^ 0xFFFFFFFF).toNat }) ∧
  (∀ (m : List Byte) (s t r : State), s.crc.cstate ≠ .fault → exec .init s = .next t → crcFeed m t = some r →
    hostTurn (.read .crc 6) r = .next { r with hostData := (crc32 m).toNat }) ∧
  ∀ s t : State, exec .crcReset s = .next t → hostTurn (.read .crc 6) t = .next { t with hostData := 0 }

/-- For messages x and y of equal length: crc32(x) xor crc32(y) = crc32(x xor y) xor crc32 of as many zero bytes. For
every 32-bit c and byte b, crc_byte(c, b) is the eight shift steps applied to the low byte of c xor b alone, xor c
shifted right by 8. (R220, R225.) -/
def Obligations.CrcIsLinear : Prop :=
  (∀ x y : List Byte, x.length = y.length →
    crc32 x ^^^ crc32 y = crc32 (List.zipWith (· ^^^ ·) x y) ^^^ crc32 (List.replicate x.length 0)) ∧
  ∀ (c : Word) (b : Byte),
    crcByte c b = crcShifts 8 ((c ^^^ b.setWidth 32) &&& 0xFF) ^^^ (c >>> 8)

/-- For every message m, byte index n < its length and bit j < 8: the message with that bit flipped has another
checksum; hence after INIT and BYTE for every byte of the flipped message, CHECK(crc32(m)) takes
ChunkChecksumMismatch; and so does CHECK with a bit of the stored checksum flipped after the bytes of m itself.
(R226, R223.) -/
def Obligations.CrcSeesEverySingleBit : Prop :=
  ∀ (m m' : List Byte) (e : Word) (s t r q : State),
    ((∃ n j, n < m.length ∧ j < 8 ∧ m' = m.set n (m.getD n 0 ^^^ BitVec.ofNat 8 (2 ^ j)) ∧ e = crc32 m) ∨
      (m' = m ∧ ∃ j, j < 32 ∧ e = crc32 m ^^^ BitVec.ofNat 32 (2 ^ j))) →
    s.crc.cstate ≠ .fault → exec .init s = .next t → crcFeed m' t = some r → exec (.check e) r = .next q →
    q.crc.cstate = .fault ∧ q.crc.err = 3

/-- For each of FT0 to FT4, with the whole scanline in DIN and BPP at least 1: byte i of the row becomes the filtered
byte plus pred(ftype, a, b, c) modulo 256, where a is the reconstructed byte BPP back (0 before that), b the byte
above, c the byte above BPP back; RAW receives the row at opos and no other byte of it changes; ipos, opos move
past the row; then row grows by 1, or after the last row of the sub-image pass is the next non-empty one, row 0
and prev all zero. Nothing else of the machine changes. (R69, R71, R242, R243, R244, R245, R246, R247, R248.) -/
def Obligations.ScanlineIsReconstructed : Prop :=
  ∀ (i : Instr) (ft n : Nat) (s : State),
    (i, ft) ∈ [(Instr.ft0, 0), (.ft1, 1), (.ft2, 2), (.ft3, 3), (.ft4, 4)] → n = s.dfl.rowBytes.getD s.dfl.pass 0 →
    s.dfl.memoryInv → 1 ≤ s.dfl.bpp.toNat → s.dfl.pass < s.dfl.npass.toNat → s.dfl.ipos + 1 + n ≤ s.dfl.inLen →
    ∃ cur raw : Memory,
      exec i s = .next { s with dfl := { s.dfl with
        elemStart := s.dfl.ipos, ftype := BitVec.ofNat 8 ft, cur := cur, raw := raw
        ipos := s.dfl.ipos + 1 + n, opos := s.dfl.opos + n
        pass := if s.dfl.row + 1 = s.dfl.rows.getD s.dfl.pass 0 then s.dfl.nextPass (s.dfl.pass + 1) else s.dfl.pass
        row := if s.dfl.row + 1 = s.dfl.rows.getD s.dfl.pass 0 then 0 else s.dfl.row + 1
        prev := if s.dfl.row + 1 = s.dfl.rows.getD s.dfl.pass 0 then [] else cur } } ∧
      (∀ k < n, (rowByte cur k).toNat = ((s.dfl.dinByte (s.dfl.ipos + 1 + k)).toNat +
        pred ft (if s.dfl.bpp.toNat ≤ k then (rowByte cur (k - s.dfl.bpp.toNat)).toNat else 0)
          (rowByte s.dfl.prev k).toNat
          (if s.dfl.bpp.toNat ≤ k then (rowByte s.dfl.prev (k - s.dfl.bpp.toNat)).toNat else 0)) % 256) ∧
      ∀ a, Memory.find raw a =
        if s.dfl.opos ≤ a ∧ a < s.dfl.opos + n then some (rowByte cur (a - s.dfl.opos)) else Memory.find s.dfl.raw a

/-- FT0 to FT4 whose row is not all in DIN take IncompleteImageData (18) with ftype the filter byte and every other
register as it was; DEF's turn in ROW with a sub-image left and no byte in DIN takes the same fault with ftype
unchanged. RAW and cur are left as they were (log entry 12). (R243, R276, R280, R283.) -/
def Obligations.ScanlineFaults : Prop :=
  (∀ (i : Instr) (ft : Nat) (s : State),
    (i, ft) ∈ [(Instr.ft0, 0), (.ft1, 1), (.ft2, 2), (.ft3, 3), (.ft4, 4)] →
    s.dfl.inLen < s.dfl.ipos + 1 + s.dfl.rowBytes.getD s.dfl.pass 0 →
    exec i s = .next { s with dfl := s.dfl.stopped 18 (some (BitVec.ofNat 8 ft)) }) ∧
  ∀ s : State, s.dfl.dphase = .row → s.dfl.pass < s.dfl.npass.toNat → s.dfl.inLen ≤ s.dfl.ipos →
    dflTurn s = .next { s with dfl := s.dfl.stopped 18 none }

/-- FT.INVALID takes InvalidFilterType (19) with ftype the byte; a scanline turn at a byte of 5 or more takes that
fault whether or not its row is there, and then DEF_ERR reads 19, DEF_FTYPE reads the byte and DEF_ERR_INFO its
offset in DIN. (R250.) -/
def Obligations.IllegalFilterType : Prop :=
  (∀ (ft : Byte) (s : State), exec (.ftInvalid ft) s = .next { s with dfl := s.dfl.stopped 19 (some ft) }) ∧
  ∀ s : State, s.dfl.dphase = .row → s.dfl.pass < s.dfl.npass.toNat → s.dfl.ipos < s.dfl.inLen →
    5 ≤ (s.dfl.dinByte s.dfl.ipos).toNat →
    ∃ t, dflTurn s = .next t ∧ t = { s with dfl := s.dfl.stopped 19 (some (s.dfl.dinByte s.dfl.ipos)) } ∧
      t.readReg .dfl 2 = 19 ∧ t.readReg .dfl 23 = (s.dfl.dinByte s.dfl.ipos).toNat ∧
      t.readReg .dfl 3 = s.dfl.ipos

/-- DEF's turn in ROW with pass = NPASS is DEF.END. With ipos = IN_LEN or beyond it sets dphase to DONE with BUSY 0,
DONE 1, OUT_VALID 1; with bytes left it takes ExcessImageData (32); ipos and everything else of the machine is
unchanged. If every configured sub-image is empty the first one set is NPASS, so the end step is the first and
only step. (R251.) -/
def Obligations.DefilterEndStep : Prop :=
  ∀ s : State,
    (s.dfl.dphase = .row → s.dfl.pass = s.dfl.npass.toNat → dflTurn s = exec .defEnd s) ∧
    (s.dfl.inLen ≤ s.dfl.ipos → exec .defEnd s = .next { s with dfl := { s.dfl with
      elemStart := s.dfl.ipos, dphase := .done, flags := ⟨false, true, false, true⟩ } }) ∧
    (s.dfl.ipos < s.dfl.inLen → exec .defEnd s = .next { s with dfl := s.dfl.stopped 32 none }) ∧
    ((∀ k < s.dfl.npass.toNat, s.dfl.rowBytes.getD k 0 = 0 ∨ s.dfl.rows.getD k 0 = 0) →
      s.dfl.nextPass 0 = s.dfl.npass.toNat)

/-- For p <= NPASS, the next sub-image q is at least p and at most NPASS; if it is less than NPASS it has columns and
rows; and every sub-image from p up to q has no columns or no rows. (R242.) -/
def Obligations.NextSubImage : Prop :=
  ∀ (u : Dfl) (p : Nat), p ≤ u.npass.toNat →
    p ≤ u.nextPass p ∧ u.nextPass p ≤ u.npass.toNat ∧
    (u.nextPass p < u.npass.toNat → 0 < u.rowBytes.getD (u.nextPass p) 0 ∧ 0 < u.rows.getD (u.nextPass p) 0) ∧
    ∀ r, p ≤ r → r < u.nextPass p → u.rowBytes.getD r 0 = 0 ∨ u.rows.getD r 0 = 0

/-- For bytes a, b, c and p = a + b - c in the integers: the result is a, b or c; none of the three is closer to p; it
is a whenever a is as close as both others, and b whenever a is not and b is as close as c. On a first row (b = c
= 0) FT4 predicts as FT1 does, and on a first pixel (a = c = 0) as FT2 does. (R249.) -/
def Obligations.PaethSelectsTheClosest : Prop :=
  ∀ a b c : Nat, a < 256 → b < 256 → c < 256 →
    let p : Int := a + b - c
    let r := paeth a b c
    (r = a ∨ r = b ∨ r = c) ∧
    (p - r).natAbs ≤ (p - a).natAbs ∧ (p - r).natAbs ≤ (p - b).natAbs ∧ (p - r).natAbs ≤ (p - c).natAbs ∧
    ((p - a).natAbs ≤ (p - b).natAbs → (p - a).natAbs ≤ (p - c).natAbs → r = a) ∧
    ((p - b).natAbs < (p - a).natAbs ∨ (p - c).natAbs < (p - a).natAbs → (p - b).natAbs ≤ (p - c).natAbs → r = b) ∧
    pred 4 a 0 0 = pred 1 a 0 0 ∧ pred 4 0 b 0 = pred 2 0 b 0

/-- When INF is not busy, not in FAULT and the run fits CNT_W, START sets phase to ZHDR, the cursor, counts and output
count to 0, s1 to 1, s2 to 0, the length arrays to 0, BUSY to 1 and DONE, OUT_VALID to 0, and keeps IN_LEN,
EXPECT_LEN, IN, OUT, WIN and ERR; otherwise it changes nothing. Nothing else of the machine changes. What a
refused start is on a finite CNT_W is the model's reading (log entry 8). (R24, R44, R56, R285.) -/
def Obligations.InfStart : Prop :=
  ∀ s : State,
    (s.inf.flags.busy = false → s.inf.flags.fault = false →
      (∀ w, s.params.cntW = some w → 8 * s.inf.inLen < 2 ^ w ∧ s.inf.expectLen < 2 ^ w) →
      exec .infStart s = .next { s with inf := { s.inf with
        phase := .zhdr, bitpos := 0, elemStart := 0, bfinal := false, btype := 0, nlen := 0, ndist := 0, ncode := 0
        lidx := 0, outCount := 0, s1 := 1, s2 := 0, clLen := List.replicate 19 0, llLen := List.replicate 288 0
        dLen := List.replicate 32 0, flags := ⟨true, false, false, false⟩, matchLen := none } }) ∧
    (s.inf.flags.busy = true ∨ s.inf.flags.fault = true ∨
      (∃ w, s.params.cntW = some w ∧ (2 ^ w ≤ 8 * s.inf.inLen ∨ 2 ^ w ≤ s.inf.expectLen)) →
      exec .infStart s = .next s)

/-- When DEF is not busy and not in FAULT and the run fits CNT_W (always so with the unbounded counters of the model;
RunsThatDoNotFitAreNotStarted states the other case): if BPP is 1 to 8 and NPASS 1 to 7, START sets ipos, opos,
row, ftype, elem_start to 0, pass to the first non-empty sub-image, prev to zero, dphase to ROW, BUSY to 1 and
DONE, OUT_VALID to 0; otherwise it takes ConfigError (34) with elem_start 0. When busy or in FAULT it changes
nothing. Nothing else of the machine changes. (R241.) -/
def Obligations.DefStart : Prop :=
  ∀ s : State,
    (s.dfl.flags.busy = false → s.dfl.flags.fault = false → s.dflFits →
      1 ≤ s.dfl.bpp.toNat → s.dfl.bpp.toNat ≤ 8 → 1 ≤ s.dfl.npass.toNat → s.dfl.npass.toNat ≤ 7 →
      exec .defStart s = .next { s with dfl := { s.dfl with
        ipos := 0, opos := 0, row := 0, ftype := 0, elemStart := 0, pass := s.dfl.nextPass 0, prev := []
        dphase := .row, flags := ⟨true, false, false, false⟩ } }) ∧
    (s.dfl.flags.busy = false → s.dfl.flags.fault = false → s.dflFits →
      s.dfl.bpp.toNat < 1 ∨ 8 < s.dfl.bpp.toNat ∨ s.dfl.npass.toNat < 1 ∨ 7 < s.dfl.npass.toNat →
      exec .defStart s = .next { s with dfl := { s.dfl with
        elemStart := 0, err := 34, errInfo := 0, dphase := .fault, flags := ⟨false, false, true, false⟩ } }) ∧
    (s.dfl.flags.busy = true ∨ s.dfl.flags.fault = true → exec .defStart s = .next s)

/-- Each reset answers a next state in which its unit has every register at the value of R55 (phase IDLE, flags and
ERR 0, configuration 0, counters and arrays 0, s1 = 1, crc = 0xFFFFFFFF) and the other two units are unchanged.
The contents of the unit's buffers are unspecified anew: nothing is listed in them (log entries 4, 5). (R44, R55,
R310.) -/
def Obligations.UnitResets : Prop :=
  ∀ s : State,
    (∃ t, exec .infReset s = .next t ∧ t = { s with inf := t.inf } ∧
      t.inf.phase = .idle ∧ t.inf.bitpos = 0 ∧ t.inf.elemStart = 0 ∧ t.inf.bfinal = false ∧ t.inf.btype = 0 ∧
      t.inf.nlen = 0 ∧ t.inf.ndist = 0 ∧ t.inf.ncode = 0 ∧ t.inf.lidx = 0 ∧ t.inf.outCount = 0 ∧
      t.inf.s1 = 1 ∧ t.inf.s2 = 0 ∧ t.inf.flags = ⟨false, false, false, false⟩ ∧ t.inf.err = 0 ∧ t.inf.errInfo = 0 ∧
      t.inf.inLen = 0 ∧ t.inf.expectLen = 0 ∧ t.inf.clLen = List.replicate 19 0 ∧
      t.inf.llLen = List.replicate 288 0 ∧ t.inf.dLen = List.replicate 32 0 ∧
      ∀ a, Memory.find t.inf.input a = none ∧ Memory.find t.inf.out a = none ∧ Memory.find t.inf.win a = none) ∧
    exec .crcReset s = .next { s with crc :=
      { reg := 0xFFFFFFFF, cnt := 0, tag := 0, cstate := .idle, active := false, matched := false, fault := false
        err := 0, errInfo := 0 } } ∧
    (∃ t, exec .defReset s = .next t ∧ t = { s with dfl := t.dfl } ∧
      t.dfl.dphase = .idle ∧ t.dfl.ipos = 0 ∧ t.dfl.opos = 0 ∧ t.dfl.pass = 0 ∧ t.dfl.row = 0 ∧ t.dfl.ftype = 0 ∧
      t.dfl.elemStart = 0 ∧ t.dfl.flags = ⟨false, false, false, false⟩ ∧ t.dfl.err = 0 ∧ t.dfl.errInfo = 0 ∧
      t.dfl.inLen = 0 ∧ t.dfl.bpp = 0 ∧ t.dfl.npass = 0 ∧ t.dfl.rowBytes = List.replicate 7 0 ∧
      t.dfl.rows = List.replicate 7 0 ∧ (∀ k, rowByte t.dfl.prev k = 0 ∧ rowByte t.dfl.cur k = 0) ∧
      ∀ a, Memory.find t.dfl.din a = none ∧ Memory.find t.dfl.raw a = none)

/-- While INF (or DEF) is busy, a host write of any value to any of its registers leaves the whole state as it is,
unless it writes RESET = 1 to CTRL. With the unit not busy: after a write of v to INF_IN_LEN or INF_EXPECT_LEN, or
to a configuration register of DEF (numbers 4 to 20), a read of it gives v (v mod 16 for the 4-bit DEF_BPP and
DEF_NPASS), a read of every other register of every unit gives what it gave before, and nothing of the machine but
the unit's configuration has changed. Busy or not, a write to any other register (a read-only or unlisted one; for
CRC any but numbers 0, 4 and 5), and a write to CTRL with bits 0 and 1 clear, leaves the whole state as it is, and
the other bits of a CTRL write do not matter. That a value is kept whole whatever CNT_W is, is the model's choice
(log entry 8). (R40, R41, R43, R44, R45.) -/
def Obligations.ConfigurationWrites : Prop :=
  ∀ (s : State) (n v : Nat),
    ((n = 0 → v / 2 % 2 = 0) →
      (s.inf.flags.busy = true → hostWrite .inf n v s = .next s) ∧
      (s.dfl.flags.busy = true → hostWrite .dfl n v s = .next s)) ∧
    (s.inf.flags.busy = false → n = 4 ∨ n = 5 →
      ∃ t, hostWrite .inf n v s = .next t ∧ t.readReg .inf n = v ∧
        (∀ u m, (u, m) ≠ (.inf, n) → t.readReg u m = s.readReg u m) ∧
        t = { s with inf := { s.inf with inLen := t.inf.inLen, expectLen := t.inf.expectLen } }) ∧
    (s.dfl.flags.busy = false → s.dfl.rowBytes.length = 7 → s.dfl.rows.length = 7 →
      4 ≤ n → n ≤ 20 →
      ∃ t, hostWrite .dfl n v s = .next t ∧ t.readReg .dfl n = (if n = 5 ∨ n = 6 then v % 16 else v) ∧
        (∀ u m, (u, m) ≠ (.dfl, n) → t.readReg u m = s.readReg u m) ∧
        t = { s with dfl := { s.dfl with inLen := t.dfl.inLen, bpp := t.dfl.bpp, npass := t.dfl.npass
                                         rowBytes := t.dfl.rowBytes, rows := t.dfl.rows } }) ∧
    (¬ (n = 0 ∨ n = 4 ∨ n = 5) → hostWrite .inf n v s = .next s ∧ hostWrite .crc n v s = .next s) ∧
    (¬ (n = 0 ∨ 4 ≤ n ∧ n ≤ 20) → hostWrite .dfl n v s = .next s) ∧
    ∀ u, (v % 4 = 0 → hostWrite u 0 v s = .next s) ∧ hostWrite u 0 v s = hostWrite u 0 (v % 4) s

/-- INF_STATUS has BUSY, DONE, FAULT, OUT_VALID in bits 0 to 3, the number of phase in bits 7:4, BFINAL in bit 8 and
BTYPE in bits 10:9; CRC_STATUS has ACTIVE, MATCH, FAULT in bits 0 to 2; DEF_STATUS has its four flags in bits 0 to
3 and pass in bits 6:4; all other bits are 0. INF_ADLER has s2 in bits 31:16 and s1 in bits 15:0. (R22, R26, R27,
R28, R41, R42, R43.) -/
def Obligations.StatusRegisterFields : Prop :=
  ∀ s : State,
    (let v := s.readReg .inf 1
     v % 2 = s.inf.flags.busy.toNat ∧ v / 2 % 2 = s.inf.flags.done.toNat ∧ v / 4 % 2 = s.inf.flags.fault.toNat ∧
     v / 8 % 2 = s.inf.flags.outValid.toNat ∧ v / 16 % 16 = s.inf.phase.number ∧ v / 256 % 2 = s.inf.bfinal.toNat ∧
     v / 512 % 4 = s.inf.btype.toNat ∧ v < 2048) ∧
    (let v := s.readReg .crc 1
     v % 2 = s.crc.active.toNat ∧ v / 2 % 2 = s.crc.matched.toNat ∧ v / 4 % 2 = s.crc.fault.toNat ∧ v < 8) ∧
    (let v := s.readReg .dfl 1
     v % 2 = s.dfl.flags.busy.toNat ∧ v / 2 % 2 = s.dfl.flags.done.toNat ∧ v / 4 % 2 = s.dfl.flags.fault.toNat ∧
     v / 8 % 2 = s.dfl.flags.outValid.toNat ∧ (s.dfl.pass ≤ 7 → v / 16 % 8 = s.dfl.pass) ∧ v < 128) ∧
    s.readReg .inf 7 / 65536 = s.inf.s2.toNat ∧ s.readReg .inf 7 % 65536 = s.inf.s1.toNat

/-- While INF is busy, a host write of IN or read of OUT has no meaning (refused, as R321 says); while DEF is busy, a
host write of DIN or read of RAW likewise; a host write of IN to an INF not busy, or of DIN to a DEF not busy,
puts the byte there and changes nothing else. A host read of OUT below INF_OUT_LEN with OUT_VALID 1 returns the
byte of OUT, and of RAW below DEF_OUT_LEN the byte of RAW, and changes nothing but the host's own data. With INF
done, its output valid and written, and neither unit busy, the handoff makes DIN[j] = OUT[j] for every j <
INF_OUT_LEN and DEF_IN_LEN = INF_OUT_LEN, and changes nothing else of the machine; that DIN then lists no byte at
or beyond INF_OUT_LEN is the model's choice (log entry 18). A handoff with INF's output not valid is refused: a
broken duty of the host (log entry 18). (R74, R79, R321, R322, R324, R330.) -/
def Obligations.HostAndTheBuffers : Prop :=
  ∀ (s : State) (a : Nat) (b : Byte),
    (s.inf.flags.busy = true → hostTurn (.fillIn a b) s = .refused .hostTouchedBusyBuffer ∧
      hostTurn (.takeOut a) s = .refused .hostTouchedBusyBuffer) ∧
    (s.dfl.flags.busy = true → hostTurn (.fillDin a b) s = .refused .hostTouchedBusyBuffer ∧
      hostTurn (.takeRaw a) s = .refused .hostTouchedBusyBuffer) ∧
    (s.inf.flags.busy = false → ∃ t, hostTurn (.fillIn a b) s = .next t ∧
      t = { s with inf := { s.inf with input := t.inf.input } } ∧ t.inf.inByte a = b ∧
      ∀ c, c ≠ a → t.inf.inByte c = s.inf.inByte c) ∧
    (s.dfl.flags.busy = false → ∃ t, hostTurn (.fillDin a b) s = .next t ∧
      t = { s with dfl := { s.dfl with din := t.dfl.din } } ∧ t.dfl.dinByte a = b ∧
      ∀ c, c ≠ a → t.dfl.dinByte c = s.dfl.dinByte c) ∧
    (s.inf.flags.busy = false → s.inf.flags.outValid = true → a < s.inf.outCount →
      hostTurn (.takeOut a) s = .next { s with hostData := (s.inf.outByte a).toNat }) ∧
    (s.dfl.flags.busy = false → s.dfl.flags.outValid = true → a < s.dfl.opos →
      hostTurn (.takeRaw a) s = .next { s with hostData := (s.dfl.rawByte a).toNat }) ∧
    (s.inf.flags.busy = false → s.dfl.flags.busy = false → s.inf.flags.done = true → s.inf.flags.outValid = true →
      (∀ j < s.inf.outCount, (Memory.find s.inf.out j).isSome) →
      ∃ t, hostTurn .handoff s = .next t ∧ t = { s with dfl := { s.dfl with din := t.dfl.din, inLen := s.inf.outCount } } ∧
        (∀ j < s.inf.outCount, t.dfl.dinByte j = s.inf.outByte j) ∧
        ∀ j, s.inf.outCount ≤ j → Memory.find t.dfl.din j = none) ∧
    (s.inf.flags.busy = false → s.dfl.flags.busy = false → s.inf.flags.outValid = false →
      hostTurn .handoff s = .refused .handoffWithoutOutput)

/-- The invariants of the control state, the code tables, the window, the memories, the checksum, CRC and DEF hold
right after power-on reset. (R55, R310.) -/
def Obligations.ResetStateIsLegal : Prop :=
  State.reset.inv

/-- From every state whose INF control state is legal, a step that answers a next state leaves it legal: BUSY is 1
exactly in phases 1 to 8, DONE and OUT_VALID exactly in DONE, FAULT and a non-zero error code exactly in FAULT;
while the unit runs bitpos <= 8 * IN_LEN; elem_start <= bitpos; in FAULT bitpos is the faulting element's first
bit and ERR_INFO its byte; ZHDR is only at bit 0. (R21, R22, R25, R26, R46, R280.) -/
def Obligations.ControlStateStaysLegal : Prop :=
  ∀ s t : State, s.inf.controlInv → step s = .next t → t.inf.controlInv

/-- From every state whose INF control state and code tables are legal, a step that answers a next state leaves the
tables legal: the counts stay in the ranges of R21, lidx < nlen + ndist while lengths are read, the entries not
read yet are 0, the code-length code is complete in DYNLENS, and in SYM the literal/length code is complete,
symbol 256 has a code and the distance code is not over-subscribed. (R21, R23, R156, R157, R158, R162, R164.) -/
def Obligations.CodeTablesStayLegal : Prop :=
  ∀ s t : State, s.inf.controlInv → s.inf.tablesInv → step s = .next t → t.inf.tablesInv

/-- From every state in which WIN[j mod 32768] = OUT[j] for each of the last min(out_count, 32768) output positions j
and INF's memories are in canonical form with WIN below 32768, a step that answers a next state leaves both so.
(R50, R51, R69, R70.) -/
def Obligations.WindowIsAViewOfTheOutput : Prop :=
  ∀ s t : State, s.inf.windowInv → s.inf.memoryInv → step s = .next t → t.inf.windowInv ∧ t.inf.memoryInv

/-- From every state in which s1 is 1 plus the sum of the output bytes, modulo 65521, s2 the sum of those values after
each byte, modulo 65521, and every output byte below out_count was written, a step that answers a next state
leaves it so. (R69, R131, R132, R190.) -/
def Obligations.ChecksumCoversTheOutput : Prop :=
  ∀ s t : State, s.inf.adlerInv → step s = .next t → t.inf.adlerInv

/-- From every state whose CRC is legal, a step that answers a next state leaves it legal. (R27, R42, R46, R223.) -/
def Obligations.CrcStateStaysLegal : Prop :=
  ∀ s t : State, s.crc.inv → step s = .next t → t.crc.inv

/-- From every state whose DEF is legal and whose INF memories are in canonical form (the handoff copies OUT), a step
that answers a next state leaves it legal: flags follow dphase; while it runs BPP is 1 to 8 and NPASS 1 to 7, pass
<= NPASS, ipos <= IN_LEN, a current sub-image is non-empty with row < ROWS[pass], and the first row of a sub-image
has an all-zero prev; the memories are in canonical form. (R28, R29, R30, R46, R241, R242.) -/
def Obligations.DefilterStateStaysLegal : Prop :=
  ∀ s t : State, s.dfl.inv → s.inf.memoryInv → step s = .next t → t.dfl.inv

/-- From a legal control state in which INF runs, if INF's turn ends in FAULT then the error code is 2, 15, 16, 17,
18, 32 or 33, and the whole state is the one before with only the error code, ERR_INFO = bitpos div 8, phase,
flags and elem_start = bitpos written. That OUT and WIN are also as before is the model's choice among the
unspecified (log entry 12). (R270, R271, R272, R273, R274, R280, R281, R283.) -/
def Obligations.FaultsOfInfArePrecise : Prop :=
  ∀ s t : State, s.inf.controlInv → s.inf.phase.running = true → infTurn s = .next t → t.inf.phase = .fault →
    t.inf.err ∈ [2, 15, 16, 17, 18, 32, 33] ∧ t = { s with inf := s.inf.stopped t.inf.err }

/-- If DEF's turn in ROW ends in FAULT then the error code is 18, 19 or 32, and the whole state is the one before with
only the error code, ERR_INFO = ipos, dphase, flags, elem_start = ipos and, if a filter byte was read, ftype
written. That RAW and cur are as before is the model's choice among the unspecified (log entry 12). (R250, R276,
R277, R278, R280, R281.) -/
def Obligations.FaultsOfDefArePrecise : Prop :=
  ∀ s t : State, s.dfl.dphase = .row → dflTurn s = .next t → t.dfl.dphase = .fault →
    t.dfl.err ∈ [18, 19, 32] ∧
    ∃ ft, (ft = if s.dfl.pass < s.dfl.npass.toNat ∧ s.dfl.ipos < s.dfl.inLen then some (s.dfl.dinByte s.dfl.ipos) else none) ∧
      t = { s with dfl := s.dfl.stopped t.dfl.err ft }

/-- From a state whose INF (with legal control state), CRC or DEF (with its flags legal) is in FAULT, after any step
that answers a next state the unit is at its reset values or has changed in nothing but its configuration
registers and input buffer: the first error is kept. (R282, R285, R286.) -/
def Obligations.OnlyResetLeavesFault : Prop :=
  ∀ s t : State, step s = .next t →
    (s.inf.controlInv → s.inf.phase = .fault →
      t.inf = Inf.reset (s.inf.epoch + 1) ∨
      t.inf = { s.inf with inLen := t.inf.inLen, expectLen := t.inf.expectLen, input := t.inf.input }) ∧
    (s.crc.cstate = .fault → t.crc = Crc.reset ∨ t.crc = s.crc) ∧
    (s.dfl.flagsInv → s.dfl.dphase = .fault →
      t.dfl = Dfl.reset (s.dfl.epoch + 1) ∨
      t.dfl = { s.dfl with inLen := t.dfl.inLen, bpp := t.dfl.bpp, npass := t.dfl.npass
                           rowBytes := t.dfl.rowBytes, rows := t.dfl.rows, din := t.dfl.din })

/-- A turn of INF that answers a next state changes only INF, and there neither IN nor IN_LEN nor EXPECT_LEN; a turn
of DEF changes only DEF, and there neither DIN nor a configuration register; a host write to a register of one
unit changes only that unit. If the turns of INF and DEF both answer next states, each also answers after the
other, and the two orders end in the same state. (R20, R73, R74, R77, R286, R293, R310, R327.) -/
def Obligations.UnitsShareNoState : Prop :=
  ∀ s t : State,
    (infTurn s = .next t → t = { s with inf := t.inf } ∧ t.inf.input = s.inf.input ∧ t.inf.inLen = s.inf.inLen ∧
      t.inf.expectLen = s.inf.expectLen) ∧
    (dflTurn s = .next t → t = { s with dfl := t.dfl } ∧ t.dfl.din = s.dfl.din ∧ t.dfl.inLen = s.dfl.inLen ∧
      t.dfl.bpp = s.dfl.bpp ∧ t.dfl.npass = s.dfl.npass ∧ t.dfl.rowBytes = s.dfl.rowBytes ∧ t.dfl.rows = s.dfl.rows) ∧
    (∀ u n v, hostWrite u n v s = .next t →
      t = match u with
        | .inf => { s with inf := t.inf }
        | .crc => { s with crc := t.crc }
        | .dfl => { s with dfl := t.dfl }) ∧
    ∀ r, infTurn s = .next t → dflTurn s = .next r → ∃ q, dflTurn t = .next q ∧ infTurn r = .next q

/-- From a legal control state with legal tables, a turn of INF while it runs answers a next state in which every byte
of OUT below the old out_count is as before and out_count has not shrunk, no byte of OUT at or beyond the new
out_count has changed, and either the unit is in FAULT with bitpos unchanged or bitpos has grown, to at most 8 *
IN_LEN. (R25, R65, R69, R190.) -/
def Obligations.OutputIsOnlyAppended : Prop :=
  ∀ s : State, s.inf.controlInv → s.inf.tablesInv → s.inf.phase.running = true →
    ∃ t, infTurn s = .next t ∧ s.inf.outCount ≤ t.inf.outCount ∧
      (∀ j, j < s.inf.outCount ∨ t.inf.outCount ≤ j → Memory.find t.inf.out j = Memory.find s.inf.out j) ∧
      (t.inf.phase = .fault ∧ t.inf.bitpos = s.inf.bitpos ∨
        s.inf.bitpos < t.inf.bitpos ∧ t.inf.bitpos ≤ 8 * s.inf.inLen)

/-- From every state that satisfies the checksum invariant and in which no match is half done, if INF's turn takes it
from a running phase to DONE, then out_count = EXPECT_LEN, bitpos = 8 * IN_LEN, the last four bytes of IN, most
significant first, are the Adler-32 of the output, and the output is valid. (R131, R132, R327.) -/
def Obligations.ACompletedDecodeIsVerified : Prop :=
  ∀ s t : State, s.inf.controlInv → s.inf.adlerInv → s.inf.phase.running = true → infTurn s = .next t →
    t.inf.phase = .done →
    t.inf.outCount = t.inf.expectLen ∧ t.inf.bitpos = 8 * t.inf.inLen ∧ 4 ≤ t.inf.inLen ∧ t.inf.flags.outValid = true ∧
    (t.inf.inByte (t.inf.inLen - 4)).toNat * 2 ^ 24 + (t.inf.inByte (t.inf.inLen - 3)).toNat * 2 ^ 16
      + (t.inf.inByte (t.inf.inLen - 2)).toNat * 2 ^ 8 + (t.inf.inByte (t.inf.inLen - 1)).toNat
      = adlerSum2 (t.inf.outputReversed t.inf.outCount) * 2 ^ 16 + adlerSum1 (t.inf.outputReversed t.inf.outCount)

/-- From every legal state in which INF runs, some number of INF turns, at most 8 * IN_LEN + 1, takes it to DONE or
FAULT, each turn answering a next state. (R25, R331.) -/
def Obligations.EveryInfRunEnds : Prop :=
  ∀ s : State, s.inf.controlInv → s.inf.tablesInv → s.inf.phase.running = true →
    ∃ n t, n ≤ 8 * s.inf.inLen + 1 ∧ infTurns n s = some t ∧ (t.inf.phase = .done ∨ t.inf.phase = .fault)

/-- When START sets an idle or done DEF running, some number of DEF turns, at most the sum of ROWS[k] over k < NPASS
plus 1, takes it to DONE or FAULT, each turn answering a next state. (R242, R243, R251, R331.) -/
def Obligations.EveryDefRunEnds : Prop :=
  ∀ s t : State, s.dfl.flags.busy = false → s.dfl.flags.fault = false → s.dfl.dphase ≠ .row →
    exec .defStart s = .next t → t.dfl.dphase = .row →
    ∃ n r, n ≤ ((List.range s.dfl.npass.toNat).map fun k => s.dfl.rows.getD k 0).sum + 1 ∧
      dflTurns n t = some r ∧ (r.dfl.dphase = .done ∨ r.dfl.dphase = .fault)

/-- Take two INFs, each not busy and not in FAULT (after reset, or after an earlier run that ended in DONE), with the
same IN_LEN, EXPECT_LEN and bytes of IN and the same open parameters, their run fitting CNT_W. After START and any
number of turns of each they agree: the same registers, faults and output bytes, whatever else the two held
before. And two INFs that agree, the windows being views of the outputs, still agree after a turn each, whatever
stale bytes OUT and WIN hold. (R24, R51, R56, R312.) -/
def Obligations.InfRunsAreIndependent : Prop :=
  ∀ s s' : State, s.params = s'.params →
    (∀ t t', s.inf.flags.busy = false → s.inf.flags.fault = false →
      s'.inf.flags.busy = false → s'.inf.flags.fault = false →
      s.inf.inLen = s'.inf.inLen → s.inf.expectLen = s'.inf.expectLen →
      (∀ a < s.inf.inLen, s.inf.inByte a = s'.inf.inByte a) → s.infFits →
      exec .infStart s = .next t → exec .infStart s' = .next t' →
      ∀ n r r', infTurns n t = some r → infTurns n t' = some r' → Inf.agree r.inf r'.inf) ∧
    (∀ t t', Inf.agree s.inf s'.inf → s.inf.windowInv → s'.inf.windowInv →
      infTurn s = .next t → infTurn s' = .next t' → Inf.agree t.inf t'.inf)

/-- Take two DEFs, each not busy and not in FAULT (after reset, or after an earlier run that ended in DONE), with the
same bytes of DIN, the same open parameters and the same configuration: IN_LEN, BPP from 1 to 8, NPASS from 1 to
7, ROWBYTES and ROWS, the run fitting CNT_W. They agree after START; and, where both satisfy the invariant of DEF,
after START and any number of turns of each: the same registers, faults and bytes of RAW, whatever else the two
held before. And two legal DEFs that agree still agree after a turn each, whatever stale bytes RAW and cur hold.
(R7, R56, R241, R242, R312.) -/
def Obligations.DefRunsAreIndependent : Prop :=
  ∀ s s' : State,
    (∀ t t', s.params = s'.params → s.dfl.flags.busy = false → s.dfl.flags.fault = false →
      s'.dfl.flags.busy = false → s'.dfl.flags.fault = false →
      s.dfl.inLen = s'.dfl.inLen → s.dfl.bpp = s'.dfl.bpp → s.dfl.npass = s'.dfl.npass →
      s.dfl.rowBytes = s'.dfl.rowBytes → s.dfl.rows = s'.dfl.rows →
      (∀ a < s.dfl.inLen, s.dfl.dinByte a = s'.dfl.dinByte a) → 1 ≤ s.dfl.bpp.toNat → s.dfl.bpp.toNat ≤ 8 →
      1 ≤ s.dfl.npass.toNat → s.dfl.npass.toNat ≤ 7 → s.dflFits →
      exec .defStart s = .next t → exec .defStart s' = .next t' →
      Dfl.agree t.dfl t'.dfl ∧ (s.dfl.inv → s'.dfl.inv →
        ∀ n r r', dflTurns n t = some r → dflTurns n t' = some r' → Dfl.agree r.dfl r'.dfl)) ∧
    (∀ t t', Dfl.agree s.dfl s'.dfl → s.dfl.inv → s'.dfl.inv →
      dflTurn s = .next t → dflTurn s' = .next t' → Dfl.agree t.dfl t'.dfl)

/-- Let CNT_W be finite. When 8 * IN_LEN or EXPECT_LEN of INF does not fit, a host write of START changes nothing; in
particular after a host write to INF_EXPECT_LEN, or of a byte count to INF_IN_LEN, that does not fit. When IN_LEN
of DEF, or ROWBYTES or ROWS of one of its NPASS sub-images, does not fit, a write of START changes nothing, also
when BPP or NPASS is illegal; in particular after a host write to DEF_IN_LEN that does not fit. That the START is
ignored, that the written length is kept whole, and the same for DEF, are the model's reading (log entry 8). (R7,
R24, R40, R44.) -/
def Obligations.RunsThatDoNotFitAreNotStarted : Prop :=
  ∀ (s : State) (w : Nat), s.params.cntW = some w →
    (2 ^ w ≤ 8 * s.inf.inLen ∨ 2 ^ w ≤ s.inf.expectLen → hostWrite .inf 0 1 s = .next s) ∧
    (∀ n v, s.inf.flags.busy = false → n = 4 ∧ 2 ^ w ≤ 8 * v ∨ n = 5 ∧ 2 ^ w ≤ v →
      ∃ t, hostWrite .inf n v s = .next t ∧ hostWrite .inf 0 1 t = .next t) ∧
    (2 ^ w ≤ s.dfl.inLen ∨
      (∃ k < s.dfl.npass.toNat, 2 ^ w ≤ s.dfl.rowBytes.getD k 0 ∨ 2 ^ w ≤ s.dfl.rows.getD k 0) →
      hostWrite .dfl 0 1 s = .next s) ∧
    ∀ v, s.dfl.flags.busy = false → 2 ^ w ≤ v → ∃ t, hostWrite .dfl 4 v s = .next t ∧ hostWrite .dfl 0 1 t = .next t

end Slice0Statements
end

