-- ==== Sys2Proof/Laws/Bits.lean ====
section
/-! SUPPORT. The laws of bit fields and Huffman codes that the decoder and the encoder share. -/

namespace Sys2Proof

/-- A field has as many bits as it says. -/
@[simp] theorem length_fieldBits (n v : Nat) : (fieldBits n v).length = n := by
  induction n generalizing v with
  | zero => rfl
  | succ n ih => simp [fieldBits, ih]

/-- A code has as many bits as the symbol's length. -/
@[simp] theorem length_codeBits (lens : List CodeLen) (s : Nat) :
    (codeBits lens s).length = (lens.getD s 0).toNat := by
  simp [codeBits]

/-- Reading a field that was written gives its value modulo its width, and what follows. -/
theorem takeBits_fieldBits (n v : Nat) (rest : List Bool) :
    takeBits n (fieldBits n v ++ rest) = some (v % 2 ^ n, rest) := by
  induction n generalizing v with
  | zero => simp [takeBits, fieldBits, Nat.mod_one]
  | succ n ih =>
    simp only [fieldBits, List.cons_append, takeBits, ih]
    have h1 : v % 2 ^ (n + 1) = v % 2 + 2 * (v / 2 % 2 ^ n) := by
      rw [Nat.pow_succ, Nat.mul_comm, Nat.mod_mul]
    have h2 : (v % 2 == 1).toNat = v % 2 := by
      rcases Nat.mod_two_eq_zero_or_one v with h | h <;> simp [h]
    rw [h1, h2]

/-- A field is read exactly when enough bits are there, and then exactly its bits are consumed. -/
theorem takeBits_eq_none_iff (n : Nat) (bits : List Bool) : takeBits n bits = none ↔ bits.length < n := by
  induction n generalizing bits with
  | zero => simp [takeBits]
  | succ n ih =>
    cases bits with
    | nil => simp [takeBits]
    | cons b bs =>
      have := ih bs
      cases h : takeBits n bs with
      | none => simp [takeBits, h, this.1 h]
      | some p =>
        have hn : ¬ bs.length < n := fun hlt => by simp [this.2 hlt] at h
        simp [takeBits, h]; omega

/-- What is left after a field is the bits after its length. -/
theorem takeBits_rest (n : Nat) (bits rest : List Bool) (v : Nat) (h : takeBits n bits = some (v, rest)) :
    rest = bits.drop n ∧ v < 2 ^ n := by
  induction n generalizing bits v with
  | zero => simp only [takeBits, Option.some.injEq, Prod.mk.injEq] at h; simp [← h.1, ← h.2]
  | succ n ih =>
    cases bits with
    | nil => simp [takeBits] at h
    | cons b bs =>
      simp only [takeBits] at h
      cases h' : takeBits n bs with
      | none => simp [h'] at h
      | some p =>
        obtain ⟨w, r⟩ := p
        simp only [h', Option.some.injEq, Prod.mk.injEq] at h
        obtain ⟨h1, h2⟩ := ih bs w (h.2 ▸ h')
        refine ⟨by simpa using h1, ?_⟩
        have := b.toNat_lt
        rw [Nat.pow_succ]; omega

/-- Writing a field that was read gives the bits back. -/
theorem fieldBits_takeBits (n : Nat) (bits rest : List Bool) (v : Nat) (h : takeBits n bits = some (v, rest)) :
    fieldBits n v ++ rest = bits := by
  induction n generalizing bits v with
  | zero => simp only [takeBits, Option.some.injEq, Prod.mk.injEq] at h; simp [fieldBits, h.2]
  | succ n ih =>
    cases bits with
    | nil => simp [takeBits] at h
    | cons b bs =>
      simp only [takeBits] at h
      cases h' : takeBits n bs with
      | none => simp [h'] at h
      | some p =>
        obtain ⟨w, r⟩ := p
        simp only [h', Option.some.injEq, Prod.mk.injEq] at h
        obtain ⟨rfl, rfl⟩ := h
        have hd : (b.toNat + 2 * w) / 2 = w := by have := b.toNat_lt; omega
        have hb : ((b.toNat + 2 * w) % 2 == 1) = b := by
          rw [Nat.add_mul_mod_self_left]; cases b <;> rfl
        simp only [fieldBits, hd, hb, List.cons_append, ih bs w h']

/-- `huff` consumes at least one bit, and only a first part of its input. -/
theorem huffFrom_rest (lens : List CodeLen) (fuel L c : Nat) (bits rest : List Bool) (s : Nat)
    (h : huffFrom lens fuel L c bits = .ok (s, rest)) :
    ∃ pre, pre ≠ [] ∧ bits = pre ++ rest := by
  induction fuel generalizing L c bits with
  | zero => simp [huffFrom] at h
  | succ fuel ih =>
    cases bits with
    | nil => simp [huffFrom] at h
    | cons b bs =>
      simp only [huffFrom] at h
      cases hs : symbolOfCode lens L (2 * c + b.toNat) with
      | some s' =>
        rw [hs] at h
        simp only [Except.ok.injEq, Prod.mk.injEq] at h
        exact ⟨[b], by simp, by simp [h.2]⟩
      | none =>
        rw [hs] at h
        obtain ⟨pre, -, hp⟩ := ih (L + 1) (2 * c + b.toNat) bs h
        exact ⟨b :: pre, by simp, by simp [hp]⟩

/-- `huff` answers a symbol, no matching code in 15 bits, or the end of the input; nothing else. -/
theorem huffFrom_error (lens : List CodeLen) (fuel L c : Nat) (bits : List Bool) (r : Reject)
    (h : huffFrom lens fuel L c bits = .error r) : r = .noCode ∨ r = .endOfInput := by
  induction fuel generalizing L c bits with
  | zero => simp only [huffFrom, Except.error.injEq] at h; exact .inl h.symm
  | succ fuel ih =>
    cases bits with
    | nil => simp only [huffFrom, Except.error.injEq] at h; exact .inr h.symm
    | cons b bs =>
      simp only [huffFrom] at h
      cases hs : symbolOfCode lens L (2 * c + b.toNat) with
      | some s' => rw [hs] at h; exact absurd h (by simp)
      | none => rw [hs] at h; exact ih _ _ _ h

end Sys2Proof
end

