-- ==== Sys2Proof/Laws/Memory.lean ====
section
/-! SUPPORT. The laws of memory: a read after a write, the frame of a write, and that every operation keeps the canonical form. -/

namespace Sys2Proof.Machine

open Sys2Proof

/-- A write leaves every other address alone. -/
theorem Memory.find_write_other (dflt : Option Byte) (m : Memory) (a a' : Nat) (b : Byte) (h : a' ≠ a) :
    Memory.find (Memory.write dflt m a b) a' = Memory.find m a' := by
  induction m with
  | nil => unfold Memory.write; split <;> simp [Memory.find, h]
  | cons c rest ih =>
    obtain ⟨x, y⟩ := c
    unfold Memory.write
    split
    · split <;> simp [Memory.find, h]
    · split
      · rename_i hx; subst hx; split <;> simp [Memory.find, h]
      · simp [Memory.find, ih]

/-- A byte written to a buffer is the byte read. -/
@[simp] theorem Memory.find_write_same (m : Memory) (a : Nat) (b : Byte) :
    Memory.find (Memory.write none m a b) a = some b := by
  induction m with
  | nil => simp [Memory.write, Memory.find]
  | cons c rest ih =>
    obtain ⟨x, y⟩ := c
    unfold Memory.write
    split
    · simp [Memory.find]
    · split
      · simp [Memory.find]
      · rename_i h; simp [Memory.find, h, ih]

/-- A read after a write to a buffer. -/
theorem Memory.find_write (m : Memory) (a a' : Nat) (b : Byte) :
    Memory.find (Memory.write none m a b) a' = if a' = a then some b else Memory.find m a' := by
  split
  · rename_i h; subst h; simp
  · rename_i h; exact Memory.find_write_other none m a a' b h

/-- An address below every listed one reads as not listed. -/
theorem Memory.find_below (dflt : Option Byte) (m : Memory) (lo a : Nat) (hw : Memory.wfAbove dflt lo m) (ha : a < lo) :
    Memory.find m a = none := by
  induction m generalizing lo with
  | nil => rfl
  | cons c rest ih =>
    obtain ⟨x, y⟩ := c
    simp only [Memory.wfAbove, Bool.and_eq_true, decide_eq_true_eq] at hw
    have hx : a ≠ x := by omega
    simp only [Memory.find, hx, if_false]
    exact ih (x + 1) hw.2 (by omega)

/-- A weaker lower bound holds too. -/
theorem Memory.wfAbove_mono (dflt : Option Byte) (m : Memory) (lo lo' : Nat) (h : lo' ≤ lo)
    (hw : Memory.wfAbove dflt lo m) : Memory.wfAbove dflt lo' m := by
  cases m with
  | nil => rfl
  | cons c rest =>
    obtain ⟨x, y⟩ := c
    simp only [Memory.wfAbove, Bool.and_eq_true, decide_eq_true_eq] at hw ⊢
    exact ⟨⟨by omega, hw.1.2⟩, hw.2⟩

/-- A write keeps the canonical form above a bound. -/
theorem Memory.write_wfAbove (dflt : Option Byte) (m : Memory) (lo a : Nat) (b : Byte)
    (hw : Memory.wfAbove dflt lo m) (ha : lo ≤ a) : Memory.wfAbove dflt lo (Memory.write dflt m a b) := by
  induction m generalizing lo with
  | nil => unfold Memory.write; split <;> simp_all [Memory.wfAbove]
  | cons c rest ih =>
    obtain ⟨x, y⟩ := c
    have hw' := hw
    simp only [Memory.wfAbove, Bool.and_eq_true, decide_eq_true_eq] at hw
    unfold Memory.write
    split
    · rename_i hlt
      split
      · exact hw'
      · rename_i hb
        simp only [Memory.wfAbove, Bool.and_eq_true, decide_eq_true_eq]
        exact ⟨⟨ha, by simpa using hb⟩, ⟨⟨by omega, hw.1.2⟩, hw.2⟩⟩
    · split
      · rename_i _ heq
        subst heq
        split
        · exact Memory.wfAbove_mono dflt rest _ lo (by omega) hw.2
        · rename_i hb
          simp only [Memory.wfAbove, Bool.and_eq_true, decide_eq_true_eq]
          exact ⟨⟨ha, by simpa using hb⟩, hw.2⟩
      · simp only [Memory.wfAbove, Bool.and_eq_true, decide_eq_true_eq]
        exact ⟨hw.1, ih (x + 1) hw.2 (by omega)⟩

/-- A write keeps the canonical form. -/
theorem Memory.write_wf (dflt : Option Byte) (m : Memory) (a : Nat) (b : Byte) (hw : Memory.wf dflt m) :
    Memory.wf dflt (Memory.write dflt m a b) :=
  Memory.write_wfAbove dflt m 0 a b hw (Nat.zero_le a)

/-- In a row buffer a read after a write gives the byte written, listed or not. -/
theorem rowByte_write (m : Memory) (a a' : Nat) (b : Byte) (hw : Memory.wf (some 0) m) :
    rowByte (Memory.write (some 0) m a b) a' = if a' = a then b else rowByte m a' := by
  unfold rowByte
  by_cases h : a' = a
  · subst h
    suffices ∀ lo, Memory.wfAbove (some 0) lo m →
        (Memory.find (Memory.write (some 0) m a' b) a').getD 0 = b by simpa using this 0 hw
    clear hw
    induction m with
    | nil =>
      intro lo _
      unfold Memory.write
      split
      · rename_i h0; simpa [Memory.find] using Option.some.inj h0
      · simp [Memory.find]
    | cons c rest ih =>
      obtain ⟨x, y⟩ := c
      intro lo hw
      have hw' := hw
      simp only [Memory.wfAbove, Bool.and_eq_true, decide_eq_true_eq] at hw
      unfold Memory.write
      split
      · rename_i hlt
        split
        · rename_i h0
          have hx : a' ≠ x := by omega
          have := Memory.find_below (some 0) rest (x + 1) a' hw.2 (by omega)
          simpa [Memory.find, hx, this] using Option.some.inj h0
        · simp [Memory.find]
      · split
        · rename_i _ heq
          subst heq
          split
          · rename_i h0
            have := Memory.find_below (some 0) rest (a' + 1) a' hw.2 (by omega)
            simpa [this] using Option.some.inj h0
          · simp [Memory.find]
        · rename_i hne
          simpa [Memory.find, hne] using ih (x + 1) hw.2
  · rw [if_neg h, Memory.find_write_other (some 0) m a a' b h]

/-- Keeping the cells that satisfy a test keeps the canonical form (the handoff, 20_memory.md R79). -/
theorem Memory.filter_wfAbove (dflt : Option Byte) (m : Memory) (lo : Nat) (p : Host.Cell → Bool)
    (hw : Memory.wfAbove dflt lo m) : Memory.wfAbove dflt lo (List.filter p m) := by
  induction m generalizing lo with
  | nil => exact hw
  | cons c rest ih =>
    obtain ⟨x, y⟩ := c
    simp only [Memory.wfAbove, Bool.and_eq_true, decide_eq_true_eq] at hw
    rw [List.filter_cons]
    split
    · simp only [Memory.wfAbove, Bool.and_eq_true, decide_eq_true_eq]
      exact ⟨hw.1, ih (x + 1) hw.2⟩
    · exact Memory.wfAbove_mono dflt _ (x + 1) lo (by omega) (ih (x + 1) hw.2)

/-- The bytes of a placed word are in canonical form. -/
theorem byteCells_wf (n a w : Nat) : Memory.wfAbove none a (byteCells n a w) := by
  induction n generalizing a w with
  | zero => rfl
  | succ n ih => simp [byteCells, Memory.wfAbove, ih]

/-- Reset memory is in canonical form. -/
theorem Memory.wf_nil (dflt : Option Byte) : Memory.wf dflt [] := rfl

end Sys2Proof.Machine
end

