-- ==== Sys2Proof/Laws/State.lean ====
section
/-! SUPPORT. One lemma per field for each named update of the state and of the units: what the field holds after it. -/

namespace Sys2Proof.Machine

open Sys2Proof

/-! ### `State.onInf` -/

@[simp] theorem State.onInf_inf (s : State) (f : Inf → Inf) : (s.onInf f).inf = f s.inf := rfl
@[simp] theorem State.onInf_crc (s : State) (f : Inf → Inf) : (s.onInf f).crc = s.crc := rfl
@[simp] theorem State.onInf_dfl (s : State) (f : Inf → Inf) : (s.onInf f).dfl = s.dfl := rfl
@[simp] theorem State.onInf_params (s : State) (f : Inf → Inf) : (s.onInf f).params = s.params := rfl
@[simp] theorem State.onInf_agenda (s : State) (f : Inf → Inf) : (s.onInf f).agenda = s.agenda := rfl
@[simp] theorem State.onInf_hostData (s : State) (f : Inf → Inf) : (s.onInf f).hostData = s.hostData := rfl
@[simp] theorem State.onInf_tick (s : State) (f : Inf → Inf) : (s.onInf f).tick = s.tick := rfl
@[simp] theorem State.onInf_draws (s : State) (f : Inf → Inf) : (s.onInf f).draws = s.draws := rfl

/-! ### `State.onCrc` -/

@[simp] theorem State.onCrc_inf (s : State) (f : Crc → Crc) : (s.onCrc f).inf = s.inf := rfl
@[simp] theorem State.onCrc_crc (s : State) (f : Crc → Crc) : (s.onCrc f).crc = f s.crc := rfl
@[simp] theorem State.onCrc_dfl (s : State) (f : Crc → Crc) : (s.onCrc f).dfl = s.dfl := rfl
@[simp] theorem State.onCrc_params (s : State) (f : Crc → Crc) : (s.onCrc f).params = s.params := rfl
@[simp] theorem State.onCrc_agenda (s : State) (f : Crc → Crc) : (s.onCrc f).agenda = s.agenda := rfl
@[simp] theorem State.onCrc_hostData (s : State) (f : Crc → Crc) : (s.onCrc f).hostData = s.hostData := rfl
@[simp] theorem State.onCrc_tick (s : State) (f : Crc → Crc) : (s.onCrc f).tick = s.tick := rfl
@[simp] theorem State.onCrc_draws (s : State) (f : Crc → Crc) : (s.onCrc f).draws = s.draws := rfl

/-! ### `State.onDfl` -/

@[simp] theorem State.onDfl_inf (s : State) (f : Dfl → Dfl) : (s.onDfl f).inf = s.inf := rfl
@[simp] theorem State.onDfl_crc (s : State) (f : Dfl → Dfl) : (s.onDfl f).crc = s.crc := rfl
@[simp] theorem State.onDfl_dfl (s : State) (f : Dfl → Dfl) : (s.onDfl f).dfl = f s.dfl := rfl
@[simp] theorem State.onDfl_params (s : State) (f : Dfl → Dfl) : (s.onDfl f).params = s.params := rfl
@[simp] theorem State.onDfl_agenda (s : State) (f : Dfl → Dfl) : (s.onDfl f).agenda = s.agenda := rfl
@[simp] theorem State.onDfl_hostData (s : State) (f : Dfl → Dfl) : (s.onDfl f).hostData = s.hostData := rfl
@[simp] theorem State.onDfl_tick (s : State) (f : Dfl → Dfl) : (s.onDfl f).tick = s.tick := rfl
@[simp] theorem State.onDfl_draws (s : State) (f : Dfl → Dfl) : (s.onDfl f).draws = s.draws := rfl

/-! ### `Inf.begin` -/

@[simp] theorem Inf.begin_phase (u : Inf) : (u.begin).phase = u.phase := rfl
@[simp] theorem Inf.begin_bitpos (u : Inf) : (u.begin).bitpos = u.bitpos := rfl
@[simp] theorem Inf.begin_elemStart (u : Inf) : (u.begin).elemStart = u.bitpos := rfl
@[simp] theorem Inf.begin_bfinal (u : Inf) : (u.begin).bfinal = u.bfinal := rfl
@[simp] theorem Inf.begin_btype (u : Inf) : (u.begin).btype = u.btype := rfl
@[simp] theorem Inf.begin_nlen (u : Inf) : (u.begin).nlen = u.nlen := rfl
@[simp] theorem Inf.begin_ndist (u : Inf) : (u.begin).ndist = u.ndist := rfl
@[simp] theorem Inf.begin_ncode (u : Inf) : (u.begin).ncode = u.ncode := rfl
@[simp] theorem Inf.begin_lidx (u : Inf) : (u.begin).lidx = u.lidx := rfl
@[simp] theorem Inf.begin_outCount (u : Inf) : (u.begin).outCount = u.outCount := rfl
@[simp] theorem Inf.begin_s1 (u : Inf) : (u.begin).s1 = u.s1 := rfl
@[simp] theorem Inf.begin_s2 (u : Inf) : (u.begin).s2 = u.s2 := rfl
@[simp] theorem Inf.begin_clLen (u : Inf) : (u.begin).clLen = u.clLen := rfl
@[simp] theorem Inf.begin_llLen (u : Inf) : (u.begin).llLen = u.llLen := rfl
@[simp] theorem Inf.begin_dLen (u : Inf) : (u.begin).dLen = u.dLen := rfl
@[simp] theorem Inf.begin_flags (u : Inf) : (u.begin).flags = u.flags := rfl
@[simp] theorem Inf.begin_err (u : Inf) : (u.begin).err = u.err := rfl
@[simp] theorem Inf.begin_errInfo (u : Inf) : (u.begin).errInfo = u.errInfo := rfl
@[simp] theorem Inf.begin_inLen (u : Inf) : (u.begin).inLen = u.inLen := rfl
@[simp] theorem Inf.begin_expectLen (u : Inf) : (u.begin).expectLen = u.expectLen := rfl
@[simp] theorem Inf.begin_input (u : Inf) : (u.begin).input = u.input := rfl
@[simp] theorem Inf.begin_out (u : Inf) : (u.begin).out = u.out := rfl
@[simp] theorem Inf.begin_win (u : Inf) : (u.begin).win = u.win := rfl
@[simp] theorem Inf.begin_matchLen (u : Inf) : (u.begin).matchLen = u.matchLen := rfl
@[simp] theorem Inf.begin_epoch (u : Inf) : (u.begin).epoch = u.epoch := rfl

/-! ### `Inf.advance` -/

@[simp] theorem Inf.advance_phase (n : Nat) (u : Inf) : (u.advance n).phase = u.phase := rfl
@[simp] theorem Inf.advance_bitpos (n : Nat) (u : Inf) : (u.advance n).bitpos = u.bitpos + n := rfl
@[simp] theorem Inf.advance_elemStart (n : Nat) (u : Inf) : (u.advance n).elemStart = u.elemStart := rfl
@[simp] theorem Inf.advance_bfinal (n : Nat) (u : Inf) : (u.advance n).bfinal = u.bfinal := rfl
@[simp] theorem Inf.advance_btype (n : Nat) (u : Inf) : (u.advance n).btype = u.btype := rfl
@[simp] theorem Inf.advance_nlen (n : Nat) (u : Inf) : (u.advance n).nlen = u.nlen := rfl
@[simp] theorem Inf.advance_ndist (n : Nat) (u : Inf) : (u.advance n).ndist = u.ndist := rfl
@[simp] theorem Inf.advance_ncode (n : Nat) (u : Inf) : (u.advance n).ncode = u.ncode := rfl
@[simp] theorem Inf.advance_lidx (n : Nat) (u : Inf) : (u.advance n).lidx = u.lidx := rfl
@[simp] theorem Inf.advance_outCount (n : Nat) (u : Inf) : (u.advance n).outCount = u.outCount := rfl
@[simp] theorem Inf.advance_s1 (n : Nat) (u : Inf) : (u.advance n).s1 = u.s1 := rfl
@[simp] theorem Inf.advance_s2 (n : Nat) (u : Inf) : (u.advance n).s2 = u.s2 := rfl
@[simp] theorem Inf.advance_clLen (n : Nat) (u : Inf) : (u.advance n).clLen = u.clLen := rfl
@[simp] theorem Inf.advance_llLen (n : Nat) (u : Inf) : (u.advance n).llLen = u.llLen := rfl
@[simp] theorem Inf.advance_dLen (n : Nat) (u : Inf) : (u.advance n).dLen = u.dLen := rfl
@[simp] theorem Inf.advance_flags (n : Nat) (u : Inf) : (u.advance n).flags = u.flags := rfl
@[simp] theorem Inf.advance_err (n : Nat) (u : Inf) : (u.advance n).err = u.err := rfl
@[simp] theorem Inf.advance_errInfo (n : Nat) (u : Inf) : (u.advance n).errInfo = u.errInfo := rfl
@[simp] theorem Inf.advance_inLen (n : Nat) (u : Inf) : (u.advance n).inLen = u.inLen := rfl
@[simp] theorem Inf.advance_expectLen (n : Nat) (u : Inf) : (u.advance n).expectLen = u.expectLen := rfl
@[simp] theorem Inf.advance_input (n : Nat) (u : Inf) : (u.advance n).input = u.input := rfl
@[simp] theorem Inf.advance_out (n : Nat) (u : Inf) : (u.advance n).out = u.out := rfl
@[simp] theorem Inf.advance_win (n : Nat) (u : Inf) : (u.advance n).win = u.win := rfl
@[simp] theorem Inf.advance_matchLen (n : Nat) (u : Inf) : (u.advance n).matchLen = u.matchLen := rfl
@[simp] theorem Inf.advance_epoch (n : Nat) (u : Inf) : (u.advance n).epoch = u.epoch := rfl

/-! ### `Inf.raise` -/

@[simp] theorem Inf.raise_phase (k : Kind) (u : Inf) : (u.raise k).phase = .fault := rfl
@[simp] theorem Inf.raise_bitpos (k : Kind) (u : Inf) : (u.raise k).bitpos = u.elemStart := rfl
@[simp] theorem Inf.raise_elemStart (k : Kind) (u : Inf) : (u.raise k).elemStart = u.elemStart := rfl
@[simp] theorem Inf.raise_bfinal (k : Kind) (u : Inf) : (u.raise k).bfinal = u.bfinal := rfl
@[simp] theorem Inf.raise_btype (k : Kind) (u : Inf) : (u.raise k).btype = u.btype := rfl
@[simp] theorem Inf.raise_nlen (k : Kind) (u : Inf) : (u.raise k).nlen = u.nlen := rfl
@[simp] theorem Inf.raise_ndist (k : Kind) (u : Inf) : (u.raise k).ndist = u.ndist := rfl
@[simp] theorem Inf.raise_ncode (k : Kind) (u : Inf) : (u.raise k).ncode = u.ncode := rfl
@[simp] theorem Inf.raise_lidx (k : Kind) (u : Inf) : (u.raise k).lidx = u.lidx := rfl
@[simp] theorem Inf.raise_outCount (k : Kind) (u : Inf) : (u.raise k).outCount = u.outCount := rfl
@[simp] theorem Inf.raise_s1 (k : Kind) (u : Inf) : (u.raise k).s1 = u.s1 := rfl
@[simp] theorem Inf.raise_s2 (k : Kind) (u : Inf) : (u.raise k).s2 = u.s2 := rfl
@[simp] theorem Inf.raise_clLen (k : Kind) (u : Inf) : (u.raise k).clLen = u.clLen := rfl
@[simp] theorem Inf.raise_llLen (k : Kind) (u : Inf) : (u.raise k).llLen = u.llLen := rfl
@[simp] theorem Inf.raise_dLen (k : Kind) (u : Inf) : (u.raise k).dLen = u.dLen := rfl
@[simp] theorem Inf.raise_flags (k : Kind) (u : Inf) : (u.raise k).flags = .faulted := rfl
@[simp] theorem Inf.raise_err (k : Kind) (u : Inf) : (u.raise k).err = k.code := rfl
@[simp] theorem Inf.raise_errInfo (k : Kind) (u : Inf) : (u.raise k).errInfo = u.elemStart / 8 := rfl
@[simp] theorem Inf.raise_inLen (k : Kind) (u : Inf) : (u.raise k).inLen = u.inLen := rfl
@[simp] theorem Inf.raise_expectLen (k : Kind) (u : Inf) : (u.raise k).expectLen = u.expectLen := rfl
@[simp] theorem Inf.raise_input (k : Kind) (u : Inf) : (u.raise k).input = u.input := rfl
@[simp] theorem Inf.raise_out (k : Kind) (u : Inf) : (u.raise k).out = u.out := rfl
@[simp] theorem Inf.raise_win (k : Kind) (u : Inf) : (u.raise k).win = u.win := rfl
@[simp] theorem Inf.raise_matchLen (k : Kind) (u : Inf) : (u.raise k).matchLen = none := rfl
@[simp] theorem Inf.raise_epoch (k : Kind) (u : Inf) : (u.raise k).epoch = u.epoch := rfl

/-! ### `Inf.emit` -/

@[simp] theorem Inf.emit_phase (b : Byte) (u : Inf) : (u.emit b).phase = u.phase := rfl
@[simp] theorem Inf.emit_bitpos (b : Byte) (u : Inf) : (u.emit b).bitpos = u.bitpos := rfl
@[simp] theorem Inf.emit_elemStart (b : Byte) (u : Inf) : (u.emit b).elemStart = u.elemStart := rfl
@[simp] theorem Inf.emit_bfinal (b : Byte) (u : Inf) : (u.emit b).bfinal = u.bfinal := rfl
@[simp] theorem Inf.emit_btype (b : Byte) (u : Inf) : (u.emit b).btype = u.btype := rfl
@[simp] theorem Inf.emit_nlen (b : Byte) (u : Inf) : (u.emit b).nlen = u.nlen := rfl
@[simp] theorem Inf.emit_ndist (b : Byte) (u : Inf) : (u.emit b).ndist = u.ndist := rfl
@[simp] theorem Inf.emit_ncode (b : Byte) (u : Inf) : (u.emit b).ncode = u.ncode := rfl
@[simp] theorem Inf.emit_lidx (b : Byte) (u : Inf) : (u.emit b).lidx = u.lidx := rfl
@[simp] theorem Inf.emit_outCount (b : Byte) (u : Inf) : (u.emit b).outCount = u.outCount + 1 := rfl
@[simp] theorem Inf.emit_s1 (b : Byte) (u : Inf) : (u.emit b).s1 = adlerS1 u.s1 b := rfl
@[simp] theorem Inf.emit_s2 (b : Byte) (u : Inf) : (u.emit b).s2 = adlerS2 u.s1 u.s2 b := rfl
@[simp] theorem Inf.emit_clLen (b : Byte) (u : Inf) : (u.emit b).clLen = u.clLen := rfl
@[simp] theorem Inf.emit_llLen (b : Byte) (u : Inf) : (u.emit b).llLen = u.llLen := rfl
@[simp] theorem Inf.emit_dLen (b : Byte) (u : Inf) : (u.emit b).dLen = u.dLen := rfl
@[simp] theorem Inf.emit_flags (b : Byte) (u : Inf) : (u.emit b).flags = u.flags := rfl
@[simp] theorem Inf.emit_err (b : Byte) (u : Inf) : (u.emit b).err = u.err := rfl
@[simp] theorem Inf.emit_errInfo (b : Byte) (u : Inf) : (u.emit b).errInfo = u.errInfo := rfl
@[simp] theorem Inf.emit_inLen (b : Byte) (u : Inf) : (u.emit b).inLen = u.inLen := rfl
@[simp] theorem Inf.emit_expectLen (b : Byte) (u : Inf) : (u.emit b).expectLen = u.expectLen := rfl
@[simp] theorem Inf.emit_input (b : Byte) (u : Inf) : (u.emit b).input = u.input := rfl
@[simp] theorem Inf.emit_out (b : Byte) (u : Inf) : (u.emit b).out = Memory.write none u.out u.outCount b := rfl
@[simp] theorem Inf.emit_win (b : Byte) (u : Inf) : (u.emit b).win = Memory.write none u.win (u.outCount % wsize) b := rfl
@[simp] theorem Inf.emit_matchLen (b : Byte) (u : Inf) : (u.emit b).matchLen = u.matchLen := rfl
@[simp] theorem Inf.emit_epoch (b : Byte) (u : Inf) : (u.emit b).epoch = u.epoch := rfl

/-! ### `Inf.blockEnd` -/

@[simp] theorem Inf.blockEnd_phase (u : Inf) : (u.blockEnd).phase = if u.bfinal then .trailer else .blkhdr := rfl
@[simp] theorem Inf.blockEnd_bitpos (u : Inf) : (u.blockEnd).bitpos = u.bitpos := rfl
@[simp] theorem Inf.blockEnd_elemStart (u : Inf) : (u.blockEnd).elemStart = u.elemStart := rfl
@[simp] theorem Inf.blockEnd_bfinal (u : Inf) : (u.blockEnd).bfinal = u.bfinal := rfl
@[simp] theorem Inf.blockEnd_btype (u : Inf) : (u.blockEnd).btype = u.btype := rfl
@[simp] theorem Inf.blockEnd_nlen (u : Inf) : (u.blockEnd).nlen = u.nlen := rfl
@[simp] theorem Inf.blockEnd_ndist (u : Inf) : (u.blockEnd).ndist = u.ndist := rfl
@[simp] theorem Inf.blockEnd_ncode (u : Inf) : (u.blockEnd).ncode = u.ncode := rfl
@[simp] theorem Inf.blockEnd_lidx (u : Inf) : (u.blockEnd).lidx = u.lidx := rfl
@[simp] theorem Inf.blockEnd_outCount (u : Inf) : (u.blockEnd).outCount = u.outCount := rfl
@[simp] theorem Inf.blockEnd_s1 (u : Inf) : (u.blockEnd).s1 = u.s1 := rfl
@[simp] theorem Inf.blockEnd_s2 (u : Inf) : (u.blockEnd).s2 = u.s2 := rfl
@[simp] theorem Inf.blockEnd_clLen (u : Inf) : (u.blockEnd).clLen = u.clLen := rfl
@[simp] theorem Inf.blockEnd_llLen (u : Inf) : (u.blockEnd).llLen = u.llLen := rfl
@[simp] theorem Inf.blockEnd_dLen (u : Inf) : (u.blockEnd).dLen = u.dLen := rfl
@[simp] theorem Inf.blockEnd_flags (u : Inf) : (u.blockEnd).flags = u.flags := rfl
@[simp] theorem Inf.blockEnd_err (u : Inf) : (u.blockEnd).err = u.err := rfl
@[simp] theorem Inf.blockEnd_errInfo (u : Inf) : (u.blockEnd).errInfo = u.errInfo := rfl
@[simp] theorem Inf.blockEnd_inLen (u : Inf) : (u.blockEnd).inLen = u.inLen := rfl
@[simp] theorem Inf.blockEnd_expectLen (u : Inf) : (u.blockEnd).expectLen = u.expectLen := rfl
@[simp] theorem Inf.blockEnd_input (u : Inf) : (u.blockEnd).input = u.input := rfl
@[simp] theorem Inf.blockEnd_out (u : Inf) : (u.blockEnd).out = u.out := rfl
@[simp] theorem Inf.blockEnd_win (u : Inf) : (u.blockEnd).win = u.win := rfl
@[simp] theorem Inf.blockEnd_matchLen (u : Inf) : (u.blockEnd).matchLen = u.matchLen := rfl
@[simp] theorem Inf.blockEnd_epoch (u : Inf) : (u.blockEnd).epoch = u.epoch := rfl

/-! ### `Dfl.begin` -/

@[simp] theorem Dfl.begin_dphase (u : Dfl) : (u.begin).dphase = u.dphase := rfl
@[simp] theorem Dfl.begin_ipos (u : Dfl) : (u.begin).ipos = u.ipos := rfl
@[simp] theorem Dfl.begin_opos (u : Dfl) : (u.begin).opos = u.opos := rfl
@[simp] theorem Dfl.begin_pass (u : Dfl) : (u.begin).pass = u.pass := rfl
@[simp] theorem Dfl.begin_row (u : Dfl) : (u.begin).row = u.row := rfl
@[simp] theorem Dfl.begin_ftype (u : Dfl) : (u.begin).ftype = u.ftype := rfl
@[simp] theorem Dfl.begin_elemStart (u : Dfl) : (u.begin).elemStart = u.ipos := rfl
@[simp] theorem Dfl.begin_flags (u : Dfl) : (u.begin).flags = u.flags := rfl
@[simp] theorem Dfl.begin_err (u : Dfl) : (u.begin).err = u.err := rfl
@[simp] theorem Dfl.begin_errInfo (u : Dfl) : (u.begin).errInfo = u.errInfo := rfl
@[simp] theorem Dfl.begin_inLen (u : Dfl) : (u.begin).inLen = u.inLen := rfl
@[simp] theorem Dfl.begin_bpp (u : Dfl) : (u.begin).bpp = u.bpp := rfl
@[simp] theorem Dfl.begin_npass (u : Dfl) : (u.begin).npass = u.npass := rfl
@[simp] theorem Dfl.begin_rowBytes (u : Dfl) : (u.begin).rowBytes = u.rowBytes := rfl
@[simp] theorem Dfl.begin_rows (u : Dfl) : (u.begin).rows = u.rows := rfl
@[simp] theorem Dfl.begin_prev (u : Dfl) : (u.begin).prev = u.prev := rfl
@[simp] theorem Dfl.begin_cur (u : Dfl) : (u.begin).cur = u.cur := rfl
@[simp] theorem Dfl.begin_din (u : Dfl) : (u.begin).din = u.din := rfl
@[simp] theorem Dfl.begin_raw (u : Dfl) : (u.begin).raw = u.raw := rfl
@[simp] theorem Dfl.begin_epoch (u : Dfl) : (u.begin).epoch = u.epoch := rfl

/-! ### `Dfl.raise` -/

@[simp] theorem Dfl.raise_dphase (k : Kind) (u : Dfl) : (u.raise k).dphase = .fault := rfl
@[simp] theorem Dfl.raise_ipos (k : Kind) (u : Dfl) : (u.raise k).ipos = u.ipos := rfl
@[simp] theorem Dfl.raise_opos (k : Kind) (u : Dfl) : (u.raise k).opos = u.opos := rfl
@[simp] theorem Dfl.raise_pass (k : Kind) (u : Dfl) : (u.raise k).pass = u.pass := rfl
@[simp] theorem Dfl.raise_row (k : Kind) (u : Dfl) : (u.raise k).row = u.row := rfl
@[simp] theorem Dfl.raise_ftype (k : Kind) (u : Dfl) : (u.raise k).ftype = u.ftype := rfl
@[simp] theorem Dfl.raise_elemStart (k : Kind) (u : Dfl) : (u.raise k).elemStart = u.elemStart := rfl
@[simp] theorem Dfl.raise_flags (k : Kind) (u : Dfl) : (u.raise k).flags = .faulted := rfl
@[simp] theorem Dfl.raise_err (k : Kind) (u : Dfl) : (u.raise k).err = k.code := rfl
@[simp] theorem Dfl.raise_errInfo (k : Kind) (u : Dfl) : (u.raise k).errInfo = u.elemStart := rfl
@[simp] theorem Dfl.raise_inLen (k : Kind) (u : Dfl) : (u.raise k).inLen = u.inLen := rfl
@[simp] theorem Dfl.raise_bpp (k : Kind) (u : Dfl) : (u.raise k).bpp = u.bpp := rfl
@[simp] theorem Dfl.raise_npass (k : Kind) (u : Dfl) : (u.raise k).npass = u.npass := rfl
@[simp] theorem Dfl.raise_rowBytes (k : Kind) (u : Dfl) : (u.raise k).rowBytes = u.rowBytes := rfl
@[simp] theorem Dfl.raise_rows (k : Kind) (u : Dfl) : (u.raise k).rows = u.rows := rfl
@[simp] theorem Dfl.raise_prev (k : Kind) (u : Dfl) : (u.raise k).prev = u.prev := rfl
@[simp] theorem Dfl.raise_cur (k : Kind) (u : Dfl) : (u.raise k).cur = u.cur := rfl
@[simp] theorem Dfl.raise_din (k : Kind) (u : Dfl) : (u.raise k).din = u.din := rfl
@[simp] theorem Dfl.raise_raw (k : Kind) (u : Dfl) : (u.raise k).raw = u.raw := rfl
@[simp] theorem Dfl.raise_epoch (k : Kind) (u : Dfl) : (u.raise k).epoch = u.epoch := rfl

/-! ### `Dfl.enterPass` -/

@[simp] theorem Dfl.enterPass_dphase (p : Nat) (u : Dfl) : (u.enterPass p).dphase = u.dphase := rfl
@[simp] theorem Dfl.enterPass_ipos (p : Nat) (u : Dfl) : (u.enterPass p).ipos = u.ipos := rfl
@[simp] theorem Dfl.enterPass_opos (p : Nat) (u : Dfl) : (u.enterPass p).opos = u.opos := rfl
@[simp] theorem Dfl.enterPass_pass (p : Nat) (u : Dfl) : (u.enterPass p).pass = u.nextPass p := rfl
@[simp] theorem Dfl.enterPass_row (p : Nat) (u : Dfl) : (u.enterPass p).row = 0 := rfl
@[simp] theorem Dfl.enterPass_ftype (p : Nat) (u : Dfl) : (u.enterPass p).ftype = u.ftype := rfl
@[simp] theorem Dfl.enterPass_elemStart (p : Nat) (u : Dfl) : (u.enterPass p).elemStart = u.elemStart := rfl
@[simp] theorem Dfl.enterPass_flags (p : Nat) (u : Dfl) : (u.enterPass p).flags = u.flags := rfl
@[simp] theorem Dfl.enterPass_err (p : Nat) (u : Dfl) : (u.enterPass p).err = u.err := rfl
@[simp] theorem Dfl.enterPass_errInfo (p : Nat) (u : Dfl) : (u.enterPass p).errInfo = u.errInfo := rfl
@[simp] theorem Dfl.enterPass_inLen (p : Nat) (u : Dfl) : (u.enterPass p).inLen = u.inLen := rfl
@[simp] theorem Dfl.enterPass_bpp (p : Nat) (u : Dfl) : (u.enterPass p).bpp = u.bpp := rfl
@[simp] theorem Dfl.enterPass_npass (p : Nat) (u : Dfl) : (u.enterPass p).npass = u.npass := rfl
@[simp] theorem Dfl.enterPass_rowBytes (p : Nat) (u : Dfl) : (u.enterPass p).rowBytes = u.rowBytes := rfl
@[simp] theorem Dfl.enterPass_rows (p : Nat) (u : Dfl) : (u.enterPass p).rows = u.rows := rfl
@[simp] theorem Dfl.enterPass_prev (p : Nat) (u : Dfl) : (u.enterPass p).prev = [] := rfl
@[simp] theorem Dfl.enterPass_cur (p : Nat) (u : Dfl) : (u.enterPass p).cur = u.cur := rfl
@[simp] theorem Dfl.enterPass_din (p : Nat) (u : Dfl) : (u.enterPass p).din = u.din := rfl
@[simp] theorem Dfl.enterPass_raw (p : Nat) (u : Dfl) : (u.enterPass p).raw = u.raw := rfl
@[simp] theorem Dfl.enterPass_epoch (p : Nat) (u : Dfl) : (u.enterPass p).epoch = u.epoch := rfl

/-! ### `Crc.raise` -/

@[simp] theorem Crc.raise_reg (k : Kind) (u : Crc) : (u.raise k).reg = u.reg := rfl
@[simp] theorem Crc.raise_cnt (k : Kind) (u : Crc) : (u.raise k).cnt = u.cnt := rfl
@[simp] theorem Crc.raise_tag (k : Kind) (u : Crc) : (u.raise k).tag = u.tag := rfl
@[simp] theorem Crc.raise_cstate (k : Kind) (u : Crc) : (u.raise k).cstate = .fault := rfl
@[simp] theorem Crc.raise_active (k : Kind) (u : Crc) : (u.raise k).active = false := rfl
@[simp] theorem Crc.raise_matched (k : Kind) (u : Crc) : (u.raise k).matched = false := rfl
@[simp] theorem Crc.raise_fault (k : Kind) (u : Crc) : (u.raise k).fault = true := rfl
@[simp] theorem Crc.raise_err (k : Kind) (u : Crc) : (u.raise k).err = k.code := rfl
@[simp] theorem Crc.raise_errInfo (k : Kind) (u : Crc) : (u.raise k).errInfo = u.tag := rfl

end Sys2Proof.Machine
end

