-- ==== Sys2Proof/Laws/Ops.lean ====
section
/-! SUPPORT. One lemma for each shared operation that says everything it can do. -/

namespace Sys2Proof.Machine

open Sys2Proof

/-! ### Elements of INF -/

/-- `take` goes on with the bits consumed, or takes `UnexpectedEof`; which one depends on the bits that remain alone (R66). -/
theorem Inf.take_cases (n : Nat) (k : Inf → Inf) (u : Inf) :
    (u.bitpos + n ≤ 8 * u.inLen ∧ u.take n k = k (u.advance n)) ∨
    (8 * u.inLen < u.bitpos + n ∧ u.take n k = u.raise .unexpectedEof) := by
  unfold Inf.take
  split
  · exact .inl ⟨‹_›, rfl⟩
  · exact .inr ⟨by omega, rfl⟩

theorem Inf.take_of_le (n : Nat) (k : Inf → Inf) (u : Inf) (h : u.bitpos + n ≤ 8 * u.inLen) :
    u.take n k = k (u.advance n) := if_pos h

theorem Inf.take_of_lt (n : Nat) (k : Inf → Inf) (u : Inf) (h : 8 * u.inLen < u.bitpos + n) :
    u.take n k = u.raise .unexpectedEof := if_neg (by omega)

/-- A fault does not depend on how far the element was read: its registers are those of the element's first bit (R280). -/
theorem Inf.raise_advance (k : Kind) (n : Nat) (u : Inf) : (u.advance n).raise k = u.raise k := rfl

/-- A fault taken at the start of an element leaves the registers of R280. -/
theorem Inf.raise_begin (k : Kind) (u : Inf) : u.begin.raise k = u.stopped k.code := rfl

/-- Emitting a byte writes `OUT` at `out_count` and nowhere else (R190). -/
theorem Inf.emit_find_out (b : Byte) (u : Inf) (a : Nat) :
    Memory.find (u.emit b).out a = if a = u.outCount then some b else Memory.find u.out a :=
  Memory.find_write u.out u.outCount a b

/-- Emitting a byte writes `WIN` at `out_count mod WSIZE` and nowhere else (R190). -/
theorem Inf.emit_find_win (b : Byte) (u : Inf) (a : Nat) :
    Memory.find (u.emit b).win a = if a = u.outCount % wsize then some b else Memory.find u.win a :=
  Memory.find_write u.win (u.outCount % wsize) a b

/-- Emitting a byte keeps the window a view of the output (R51). -/
theorem Inf.emit_windowInv (b : Byte) (u : Inf) (h : u.windowInv) : (u.emit b).windowInv := by
  intro j hj hw
  simp only [Inf.emit_outCount] at hj hw
  rw [Inf.emit_find_out, Inf.emit_find_win]
  by_cases hjc : j = u.outCount
  · subst hjc; simp
  · have hne : j % wsize ≠ u.outCount % wsize := by
      intro he
      simp only [wsize] at he hw
      omega
    simpa [hjc, hne] using h j (by omega) (by omega)

/-- What copying a stored block leaves alone, and how far it goes (R155). -/
theorem Inf.copyStored_regs (n : Nat) (u : Inf) :
    (u.copyStored n).outCount = u.outCount + n ∧ (u.copyStored n).bitpos = u.bitpos + 8 * n ∧
    u.copyStored n = { u with
      bitpos := (u.copyStored n).bitpos, outCount := (u.copyStored n).outCount, out := (u.copyStored n).out,
      win := (u.copyStored n).win, s1 := (u.copyStored n).s1, s2 := (u.copyStored n).s2 } := by
  induction n generalizing u with
  | zero => exact ⟨rfl, rfl, rfl⟩
  | succ n ih =>
    obtain ⟨h1, h2, h3⟩ := ih ((u.emit (u.inByte (u.bitpos / 8))).advance 8)
    refine ⟨?_, ?_, ?_⟩
    · simp only [Inf.copyStored, h1, Inf.advance_outCount, Inf.emit_outCount]; omega
    · simp only [Inf.copyStored, h2, Inf.advance_bitpos, Inf.emit_bitpos]; omega
    · simp only [Inf.copyStored]
      exact h3

/-- What copying a match leaves alone, and how far it goes (R199). -/
theorem Inf.copyMatch_regs (n dist : Nat) (u : Inf) :
    (u.copyMatch n dist).outCount = u.outCount + n ∧
    u.copyMatch n dist = { u with
      outCount := (u.copyMatch n dist).outCount, out := (u.copyMatch n dist).out, win := (u.copyMatch n dist).win,
      s1 := (u.copyMatch n dist).s1, s2 := (u.copyMatch n dist).s2 } := by
  induction n generalizing u with
  | zero => exact ⟨rfl, rfl⟩
  | succ n ih =>
    obtain ⟨h1, h2⟩ := ih (u.emit (u.winByte ((u.outCount - dist) % wsize)))
    refine ⟨?_, ?_⟩
    · simp only [Inf.copyMatch, h1, Inf.emit_outCount]; omega
    · simp only [Inf.copyMatch]
      exact h2

/-- Writing one entry of the length sequence changes that entry of one array and nothing else (R158). -/
theorem Inf.setLen_regs (i : Nat) (v : CodeLen) (u : Inf) :
    u.setLen i v = { u with
      llLen := if i < u.nlen then u.llLen.set i v else u.llLen,
      dLen := if i < u.nlen then u.dLen else u.dLen.set (i - u.nlen) v } := by
  unfold Inf.setLen; split <;> rfl

/-- What appending lengths leaves alone, and how far it goes (R158, R159). -/
theorem Inf.appendLens_regs (n : Nat) (v : CodeLen) (u : Inf) :
    (u.appendLens n v).lidx = u.lidx + n ∧
    (u.appendLens n v).llLen.length = u.llLen.length ∧ (u.appendLens n v).dLen.length = u.dLen.length ∧
    u.appendLens n v = { u with
      lidx := (u.appendLens n v).lidx, llLen := (u.appendLens n v).llLen, dLen := (u.appendLens n v).dLen } := by
  induction n generalizing u with
  | zero => exact ⟨rfl, rfl, rfl, rfl⟩
  | succ n ih =>
    obtain ⟨h1, h2, h3, h4⟩ := ih { u.setLen u.lidx v with lidx := u.lidx + 1 }
    refine ⟨?_, ?_, ?_, ?_⟩
    · simp only [Inf.appendLens, h1]; omega
    · refine Eq.trans h2 (?_ : (u.setLen u.lidx v).llLen.length = _)
      unfold Inf.setLen; split <;> simp
    · refine Eq.trans h3 (?_ : (u.setLen u.lidx v).dLen.length = _)
      unfold Inf.setLen; split <;> simp
    · simp only [Inf.appendLens]
      rw [h4, Inf.setLen_regs]

/-- Table completion goes on to `SYM` with the tables unchanged, or faults on the state the step began in (R162). -/
theorem Inf.completeTables_cases (p : Policy) (u0 u : Inf) :
    (u.llLen.getD 256 0 ≠ 0 ∧ classify u.llLen = .complete ∧ classify u.dLen ≠ .overSubscribed ∧
      (classify u.dLen = .complete ∨ incompletePermitted p u.dLen = true) ∧
      Inf.completeTables p u0 u = { u with phase := .sym }) ∨
    Inf.completeTables p u0 u = u0.raise .invalidDeflateStream := by
  unfold Inf.completeTables
  split
  · exact .inr rfl
  · split
    · exact .inr rfl
    · split
      · exact .inr rfl
      · split
        · exact .inr rfl
        · rename_i h1 h2 h3 h4
          refine .inl ⟨h1, by simpa using h2, h3, ?_, rfl⟩
          cases hc : classify u.dLen with
          | overSubscribed => exact absurd hc h3
          | complete => exact .inl rfl
          | incomplete =>
            right
            cases hp : incompletePermitted p u.dLen with
            | true => rfl
            | false => exact absurd ⟨hc, hp⟩ h4

/-- The end of a code-length element: more lengths to come, or table completion. -/
theorem Inf.endLens_cases (p : Policy) (u0 u : Inf) :
    (u.lidx ≠ u.nlen + u.ndist ∧ Inf.endLens p u0 u = u) ∨
    (u.lidx = u.nlen + u.ndist ∧ Inf.endLens p u0 u = Inf.completeTables p u0 u) := by
  unfold Inf.endLens
  split
  · exact .inr ⟨‹_›, rfl⟩
  · exact .inl ⟨‹_›, rfl⟩

/-! ### Elements of DEF -/

/-- `nextpass` finds the first non-empty sub-image of those it looks at, or their end (R242). -/
theorem Dfl.nextPassFrom_spec (u : Dfl) (fuel q : Nat) :
    q ≤ u.nextPassFrom fuel q ∧ u.nextPassFrom fuel q ≤ q + fuel ∧
    (∀ r, q ≤ r → r < u.nextPassFrom fuel q → u.emptyPass r = true) ∧
    (u.nextPassFrom fuel q < q + fuel → u.emptyPass (u.nextPassFrom fuel q) = false) := by
  induction fuel generalizing q with
  | zero => exact ⟨Nat.le_refl _, Nat.le_refl _, fun r h1 h2 => by simp [Dfl.nextPassFrom] at h2; omega,
      fun h => by simp [Dfl.nextPassFrom] at h⟩
  | succ fuel ih =>
    unfold Dfl.nextPassFrom
    split
    · rename_i he
      obtain ⟨h1, h2, h3, h4⟩ := ih (q + 1)
      refine ⟨by omega, by omega, fun r hr hlt => ?_, fun hlt => h4 (by omega)⟩
      by_cases hq : r = q
      · rw [hq]; exact he
      · exact h3 r (by omega) hlt
    · rename_i he
      exact ⟨Nat.le_refl _, by omega, fun r h1 h2 => by omega, fun _ => by simpa using he⟩

/-- The row loop writes the indices from `i` on and leaves the others alone, in canonical form (R243). -/
theorem Dfl.rebuild_wf (pr : Nat → Nat → Nat → Nat) (u : Dfl) (n i : Nat) (cur : Memory)
    (hw : Memory.wf (some 0) cur) : Memory.wf (some 0) (u.rebuild pr n i cur) := by
  induction n generalizing i cur with
  | zero => exact hw
  | succ n ih => exact ih (i + 1) _ (Memory.write_wf _ cur i _ hw)

/-- The row loop leaves every index outside its range alone. -/
theorem Dfl.rebuild_other (pr : Nat → Nat → Nat → Nat) (u : Dfl) (n i : Nat) (cur : Memory) (k : Nat)
    (hk : k < i ∨ i + n ≤ k) : Memory.find (u.rebuild pr n i cur) k = Memory.find cur k := by
  induction n generalizing i cur with
  | zero => rfl
  | succ n ih =>
    simp only [Dfl.rebuild]
    rw [ih (i + 1) _ (by omega), Memory.find_write_other _ cur i k _ (by omega)]

/-- Copying a row writes `RAW` at the row's place and nowhere else (R243). -/
theorem copyRow_find (cur : Memory) (opos n i : Nat) (raw : Memory) (a : Nat) :
    Memory.find (copyRow cur opos n i raw) a =
      if opos + i ≤ a ∧ a < opos + i + n then some (rowByte cur (a - opos)) else Memory.find raw a := by
  induction n generalizing i raw with
  | zero => simp only [copyRow]; rw [if_neg (by omega)]
  | succ n ih =>
    simp only [copyRow]
    rw [ih (i + 1) _, Memory.find_write]
    by_cases h1 : a = opos + i
    · subst h1
      have : ¬ (opos + (i + 1) ≤ opos + i ∧ opos + i < opos + (i + 1) + n) := by omega
      rw [if_neg this, if_pos rfl, if_pos (by omega)]
      congr 2; omega
    · by_cases h2 : opos + (i + 1) ≤ a ∧ a < opos + (i + 1) + n
      · rw [if_pos h2, if_pos (by omega)]
      · rw [if_neg h2, if_neg h1, if_neg (by omega)]

/-- Copying a row keeps `RAW` in canonical form. -/
theorem copyRow_wf (cur : Memory) (opos n i : Nat) (raw : Memory) (hw : Memory.wf none raw) :
    Memory.wf none (copyRow cur opos n i raw) := by
  induction n generalizing i raw with
  | zero => exact hw
  | succ n ih => exact ih (i + 1) _ (Memory.write_wf _ raw _ _ hw)

/-! ### Counter width -/

/-- With unbounded counters the width check lets every outcome pass (R24). -/
theorem guardWidth_unbounded (o : Host.Outcome State Fault Refusal)
    (h : ∀ t, o = .next t → t.params.cntW = none) : guardWidth o = o := by
  cases o with
  | next t => simp [guardWidth, State.countersFit, fitsWidth, h t rfl]
  | fault f => rfl
  | refused r => rfl

/-- A next state that passed the width check is the turn's own next state. -/
theorem guardWidth_next (o : Host.Outcome State Fault Refusal) (t : State) (h : guardWidth o = .next t) : o = .next t := by
  cases o with
  | next s => simp only [guardWidth] at h; split at h <;> simp_all
  | fault f => simp [guardWidth] at h
  | refused r => simp [guardWidth] at h

end Sys2Proof.Machine
end

