-- ==== Sys2Proof/Laws/Turn.lean ====
section
/-! SUPPORT. What a meaning, a turn and a step can do, for the provers to cite instead of unfolding them. -/

namespace Sys2Proof.Machine

open Sys2Proof

/-! ### An element of INF that reads `n` bits first -/

/-- With the bits there, the element goes on from the registers with the bits consumed. -/
theorem onInf_take_of_le (s : State) (n : Nat) (k : Inf → Inf) (h : s.inf.bitpos + n ≤ 8 * s.inf.inLen) :
    s.onInf (fun u => u.begin.take n k) = { s with inf := k (s.inf.consumed n) } :=
  congrArg (fun v => { s with inf := v }) (Inf.take_of_le n k s.inf.begin h)

/-- Without them, it takes `UnexpectedEof`. -/
theorem onInf_take_of_lt (s : State) (n : Nat) (k : Inf → Inf) (h : 8 * s.inf.inLen < s.inf.bitpos + n) :
    s.onInf (fun u => u.begin.take n k) = { s with inf := s.inf.stopped 2 } :=
  congrArg (fun v => { s with inf := v }) (Inf.take_of_lt n k s.inf.begin h)

/-! ### The Huffman-coded elements, by symbol and extra value -/

/-- What `exec` does with a code-length element, by its symbol and extra value (R158 to R161). -/
theorem exec_codeLength (i : Instr) (sym k x : Nat) (s : State) (h : i.coded = some ⟨.codeLength, sym, k, x⟩) :
    sym ≤ 18 ∧ k = clExtra sym ∧ x < 2 ^ k ∧
    exec i s = .next (s.onInf (if sym < 16 then Inf.clExplicit sym s.params.incomplete
      else if sym = 16 then Inf.clRepeat x s.params.incomplete else Inf.clZeros sym x s.params.incomplete)) := by
  cases i <;> cases h <;>
    exact ⟨by decide, rfl, by first | exact Nat.zero_lt_one | exact BitVec.isLt _, rfl⟩

/-- What `exec` does with a literal/length symbol, by its number and extra value (R192 to R195). -/
theorem exec_literalLength (i : Instr) (sym k x : Nat) (s : State) (h : i.coded = some ⟨.literalLength, sym, k, x⟩) :
    sym ≤ 287 ∧ k = lenExtra sym ∧ x < 2 ^ k ∧
    exec i s = .next (s.onInf (if sym < 256 then fun u => u.begin.take (u.symBits sym) (Inf.emit (BitVec.ofNat 8 sym))
      else if sym = 256 then fun u => u.begin.take (u.symBits 256) Inf.blockEnd
      else if sym ≤ 285 then Inf.lengthHalf sym x else Inf.reservedSym sym)) := by
  cases i with
  | lit v =>
    cases h
    have hv := v.isLt
    refine ⟨by omega, ?_, Nat.zero_lt_one, ?_⟩
    · simp only [lenExtra]; rw [if_pos (by omega)]
    · rw [if_pos hv, BitVec.ofNat_toNat, BitVec.setWidth_eq]; rfl
  | _ =>
    cases h <;> exact ⟨by decide, rfl, by first | exact Nat.zero_lt_one | exact BitVec.isLt _, rfl⟩

/-- What `exec` does with a distance symbol, by its number and extra value (R194, R197). -/
theorem exec_distance (i : Instr) (t k x : Nat) (s : State) (h : i.coded = some ⟨.distance, t, k, x⟩) :
    t ≤ 31 ∧ k = distExtra t ∧ x < 2 ^ k ∧
    exec i s = .next (s.onInf (if t < 30 then Inf.distanceHalf t x else Inf.reservedDist t)) := by
  cases i <;> cases h <;>
    exact ⟨by decide, rfl, by first | exact Nat.zero_lt_one | exact BitVec.isLt _, rfl⟩

/-! ### A step -/

/-- What a step can do: nothing, a turn of INF, a turn of DEF or a host action, on a state that differs from `s` in the
agenda and the count of choices alone. -/
theorem step_cases {s t : State} (h : step s = .next t) :
    ∃ (a : List Event) (k : Nat),
      t = { s with agenda := a, tick := k } ∨ infTurn { s with agenda := a, tick := k } = .next t ∨
      dflTurn { s with agenda := a, tick := k } = .next t ∨
      ∃ op, hostTurn op { s with agenda := a, tick := k } = .next t := by
  unfold step at h
  split at h
  · rename_i ha
    have h := guardWidth_next _ _ h
    unfold freeTurn at h
    have he : ∀ k, ({ s with tick := k } : State) = { s with agenda := [], tick := k } := by intro k; rw [← ha]
    have he' : s = { s with agenda := [], tick := s.tick } := by rw [← ha]
    split at h
    · split at h
      · split at h
        · exact ⟨[], s.tick + 1, .inr (.inl (he _ ▸ h))⟩
        · exact ⟨[], s.tick + 1, .inr (.inr (.inl (he _ ▸ h)))⟩
      · exact ⟨[], s.tick, .inr (.inl (he' ▸ h))⟩
    · split at h
      · exact ⟨[], s.tick, .inr (.inr (.inl (he' ▸ h)))⟩
      · cases h; exact ⟨[], s.tick, .inl he'⟩
  · rename_i e rest ha
    have h := guardWidth_next _ _ h
    cases e with
    | unit u =>
      cases u with
      | inf => exact ⟨rest, s.tick, .inr (.inl h)⟩
      | crc => cases h; exact ⟨rest, s.tick, .inl rfl⟩
      | dfl => exact ⟨rest, s.tick, .inr (.inr (.inl h))⟩
    | host op => exact ⟨rest, s.tick, .inr (.inr (.inr ⟨op, h⟩))⟩

end Sys2Proof.Machine
end

