-- ==== Sys2Proof/Laws/Control.lean ====
section
/-! SUPPORT. What the `CTRL` commands and the register writes of the host can do, and when a run fits `CNT_W` (10_state.md R24,
R40, R44). -/

namespace Sys2Proof.Machine

open Sys2Proof

/-! ### Counter width -/

/-- A value fits when it is below `2 ^ CNT_W`, and always when the counters are unbounded. -/
theorem fitsWidth_iff (p : Params) (v : Nat) : fitsWidth p v = true ↔ ∀ w, p.cntW = some w → v < 2 ^ w := by
  unfold fitsWidth
  cases h : p.cntW with
  | none => exact ⟨fun _ w hw => absurd hw (by simp), fun _ => rfl⟩
  | some w => exact ⟨fun hv w' hw => Option.some.inj hw ▸ of_decide_eq_true hv, fun hv => decide_eq_true (hv w rfl)⟩

/-- The test of `INF.START` is R24's. -/
theorem State.infRunFits_iff (s : State) : s.infRunFits = true ↔ s.infFits := by
  unfold State.infRunFits State.infFits
  rw [Bool.and_eq_true, fitsWidth_iff, fitsWidth_iff]
  exact ⟨fun h w hw => ⟨h.1 w hw, h.2 w hw⟩, fun h => ⟨fun w hw => (h w hw).1, fun w hw => (h w hw).2⟩⟩

/-- The test of `DEF.START` is that of log entry 8. -/
theorem State.dflRunFits_iff (s : State) : s.dflRunFits = true ↔ s.dflFits := by
  unfold State.dflRunFits State.dflFits
  simp only [Bool.and_eq_true, fitsWidth_iff, List.all_eq_true, List.mem_range]
  exact ⟨fun h w hw => ⟨h.1 w hw, fun k hk => ⟨(h.2 k hk).1 w hw, (h.2 k hk).2 w hw⟩⟩,
    fun h => ⟨fun w hw => (h w hw).1, fun k hk => ⟨fun w hw => ((h w hw).2 k hk).1, fun w hw => ((h w hw).2 k hk).2⟩⟩⟩

/-! ### The start commands -/

/-- `INF.START` starts a run of a unit that is neither busy nor in `FAULT`, if it fits; otherwise it changes nothing. -/
theorem execInfStart_cases (s : State) :
    (s.inf.flags.busy = false ∧ s.inf.flags.fault = false ∧ s.infFits ∧ execInfStart s = .next (s.onInf Inf.start)) ∨
    ((s.inf.flags.busy = true ∨ s.inf.flags.fault = true ∨ ¬ s.infFits) ∧ execInfStart s = .next s) := by
  unfold execInfStart Flags.ignoresStart
  rw [← State.infRunFits_iff]
  cases s.inf.flags.busy <;> cases s.inf.flags.fault <;> cases s.infRunFits <;> simp

/-- `DEF.START` starts a run, or takes `ConfigError`, of a unit that is neither busy nor in `FAULT`, if the run fits;
otherwise it changes nothing. -/
theorem execDefStart_cases (s : State) :
    (s.dfl.flags.busy = false ∧ s.dfl.flags.fault = false ∧ s.dflFits ∧ execDefStart s = .next (s.onDfl Dfl.start)) ∨
    ((s.dfl.flags.busy = true ∨ s.dfl.flags.fault = true ∨ ¬ s.dflFits) ∧ execDefStart s = .next s) := by
  unfold execDefStart Flags.ignoresStart
  rw [← State.dflRunFits_iff]
  cases s.dfl.flags.busy <;> cases s.dfl.flags.fault <;> cases s.dflRunFits <;> simp

/-- The next sub-image depends on the configuration alone (44_defilter.md R242). -/
theorem Dfl.nextPass_congr {u v : Dfl} (hb : v.rowBytes = u.rowBytes) (hr : v.rows = u.rows) (hn : v.npass = u.npass) (p : Nat) :
    v.nextPass p = u.nextPass p := by
  have : ∀ fuel q, v.nextPassFrom fuel q = u.nextPassFrom fuel q := by
    intro fuel
    induction fuel with
    | zero => intro q; rfl
    | succ n ih =>
      intro q
      have he : v.emptyPass q = u.emptyPass q := by unfold Dfl.emptyPass; rw [hb, hr]
      unfold Dfl.nextPassFrom
      rw [ih, he]
  simp only [Dfl.nextPass, this, hn]

/-- The test of R241. -/
theorem Dfl.configLegal_iff (u : Dfl) :
    u.configLegal = true ↔ (1 ≤ u.bpp.toNat ∧ u.bpp.toNat ≤ 8) ∧ 1 ≤ u.npass.toNat ∧ u.npass.toNat ≤ 7 := by
  unfold Dfl.configLegal
  rw [Bool.and_eq_true, Bool.and_eq_true, Bool.and_eq_true]
  exact ⟨fun h => ⟨⟨of_decide_eq_true h.1.1.1, of_decide_eq_true h.1.1.2⟩, of_decide_eq_true h.1.2, of_decide_eq_true h.2⟩,
    fun h => ⟨⟨⟨decide_eq_true h.1.1, decide_eq_true h.1.2⟩, decide_eq_true h.2.1⟩, decide_eq_true h.2.2⟩⟩

/-- The start of DEF with a legal configuration (R241). -/
theorem Dfl.start_of_legal (u : Dfl) (h : u.configLegal = true) :
    u.start = { u with
      elemStart := 0, ipos := 0, opos := 0, ftype := 0, dphase := .row, flags := .started
      pass := u.nextPass 0, row := 0, prev := [] } := by
  refine (if_pos h).trans ?_
  rw [← Dfl.nextPass_congr (v := { u with elemStart := 0, ipos := 0, opos := 0, ftype := 0, dphase := .row, flags := .started })
    (u := u) rfl rfl rfl 0]
  rfl

/-- The start of DEF with an illegal one (R241). -/
theorem Dfl.start_of_illegal (u : Dfl) (h : u.configLegal = false) :
    u.start = Dfl.raise .configError { u with elemStart := 0 } :=
  if_neg (by rw [show ({ u with elemStart := 0 } : Dfl).configLegal = u.configLegal from rfl, h]; decide)

/-! ### A host register write -/

/-- A register write runs the command its low 32 bits are, if they are one, and is a configuration write otherwise. -/
theorem hostWrite_eq (u : UnitId) (n v : Nat) (s : State) :
    hostWrite u n v s =
      match mkCommand u n (v % 2 ^ 32) with
      | some i => exec i s
      | none => .next (s.writeConfig u n v) := by
  have h : takeBits 32 (fieldBits 32 v) = some (v % 2 ^ 32, []) := by
    have := takeBits_fieldBits 32 v []
    rwa [List.append_nil] at this
  unfold hostWrite decode
  dsimp only
  rw [h]
  dsimp only
  cases mkCommand u n (v % 2 ^ 32) <;> rfl

/-- A write to a register that has neither a command nor a configuration value changes nothing (R40). -/
theorem hostWrite_ignored (u : UnitId) (n v : Nat) (s : State) (hc : mkCommand u n (v % 2 ^ 32) = none)
    (hw : s.writeConfig u n v = s) : hostWrite u n v s = .next s := by
  rw [hostWrite_eq, hc, hw]

end Sys2Proof.Machine
end

