-- ==== Sys2Proof/Laws/Huffman.lean ====
section
/-! SUPPORT. The laws of canonical codes: which symbol a code is, how the codes of each length fill the code space, and that the
decoder and the codes agree (30_encoding.md R102 to R104). -/

namespace Sys2Proof

/-- The symbols of a length, in order: the `r`-th is the symbol that has `r` smaller ones of its length. -/
theorem symbolsOfLen_getElem? (L : Nat) (lens : List CodeLen) (s0 r s : Nat) :
    (symbolsOfLen L s0 lens)[r]? = some s ↔
      ∃ k, s = s0 + k ∧ k < lens.length ∧ (lens.getD k 0).toNat = L ∧
        (lens.take k).countP (fun l => l.toNat == L) = r := by
  induction lens generalizing s0 r with
  | nil => simp [symbolsOfLen]
  | cons l ls ih =>
    unfold symbolsOfLen
    split
    · rename_i hl
      cases r with
      | zero =>
        rw [List.getElem?_cons_zero]
        constructor
        · intro h; injection h with h
          exact ⟨0, by omega, by simp, by simpa using hl, by simp⟩
        · rintro ⟨k, hk, hlt, hL, hc⟩
          cases k with
          | zero => simp [hk]
          | succ k => simp [hl] at hc
      | succ r =>
        rw [List.getElem?_cons_succ, ih]
        constructor
        · rintro ⟨k, hk, hlt, hL, hc⟩
          exact ⟨k + 1, by omega, by simpa using hlt, by simpa using hL, by simp [hl, hc]⟩
        · rintro ⟨k, hk, hlt, hL, hc⟩
          cases k with
          | zero => simp at hc
          | succ k =>
            refine ⟨k, by omega, by simpa using hlt, by simpa using hL, ?_⟩
            simpa [hl] using hc
    · rename_i hl
      rw [ih]
      constructor
      · rintro ⟨k, hk, hlt, hL, hc⟩
        exact ⟨k + 1, by omega, by simpa using hlt, by simpa using hL, by simp [hl, hc]⟩
      · rintro ⟨k, hk, hlt, hL, hc⟩
        cases k with
        | zero => simp at hL; exact absurd hL hl
        | succ k =>
          refine ⟨k, by omega, by simpa using hlt, by simpa using hL, ?_⟩
          simpa [hl] using hc

theorem length_symbolsOfLen (L : Nat) (lens : List CodeLen) (s0 : Nat) :
    (symbolsOfLen L s0 lens).length = lens.countP (fun l => l.toNat == L) := by
  induction lens generalizing s0 with
  | nil => rfl
  | cons l ls ih => unfold symbolsOfLen; split <;> simp [*]

/-- The symbol whose code is a number of `L` bits: of length `L`, with that code (R103, R104). -/
theorem symbolOfCode_iff (lens : List CodeLen) (L c s : Nat) :
    symbolOfCode lens L c = some s ↔ s < lens.length ∧ (lens.getD s 0).toNat = L ∧ codeOf lens s = c := by
  unfold symbolOfCode codeOf
  split
  · rename_i h
    rw [symbolsOfLen_getElem?]
    constructor
    · rintro ⟨k, hk, hlt, hL, hc⟩
      have : s = k := by omega
      subst this
      refine ⟨hlt, hL, ?_⟩
      simp only [hL, hc]; omega
    · rintro ⟨hlt, hL, hc⟩
      refine ⟨s, by omega, hlt, hL, ?_⟩
      simp only [hL] at hc; omega
  · rename_i h
    constructor
    · intro h'; cases h'
    · rintro ⟨hlt, hL, hc⟩; simp only [hL] at hc; omega

/-- How much of the `L`-bit code space the codes of at most `L` bits use. -/
def usedCodes (lens : List CodeLen) (L : Nat) : Nat := firstCode lens L + countLen lens L

theorem usedCodes_zero (lens : List CodeLen) : usedCodes lens 0 = 0 := rfl
theorem firstCode_succ (lens : List CodeLen) (L : Nat) : firstCode lens (L + 1) = 2 * usedCodes lens L := rfl
theorem usedCodes_succ (lens : List CodeLen) (L : Nat) :
    usedCodes lens (L + 1) = 2 * usedCodes lens L + countLen lens (L + 1) := rfl

/-- The codes of at most `L` bits, prolonged by `k` bits, come before the codes of `L + k + 1` bits. -/
theorem usedCodes_mul_le_firstCode (lens : List CodeLen) (L k : Nat) :
    usedCodes lens L * 2 ^ (k + 1) ≤ firstCode lens (L + k + 1) := by
  induction k with
  | zero => rw [firstCode_succ]; omega
  | succ k ih =>
    have h2 : usedCodes lens (L + k + 1) ≥ firstCode lens (L + k + 1) := Nat.le_add_right _ _
    have h3 : firstCode lens (L + k + 1 + 1) = 2 * usedCodes lens (L + k + 1) := firstCode_succ ..
    have h4 : 2 ^ (k + 1 + 1) = 2 * 2 ^ (k + 1) := by rw [Nat.pow_succ]; omega
    rw [show L + (k + 1) + 1 = L + k + 1 + 1 by omega, h3, h4, ← Nat.mul_assoc, Nat.mul_comm _ 2, Nat.mul_assoc]
    omega

theorem usedCodes_mono (lens : List CodeLen) (L k : Nat) : usedCodes lens L * 2 ^ k ≤ usedCodes lens (L + k) := by
  cases k with
  | zero => simp
  | succ k => exact Nat.le_trans (usedCodes_mul_le_firstCode lens L k) (Nat.le_add_right _ _)

/-- A symbol's code comes before the end of the codes of its length. -/
theorem codeOf_lt (lens : List CodeLen) (s : Nat) (hs : s < lens.length) (h : lens.getD s 0 ≠ 0) :
    codeOf lens s < usedCodes lens (lens.getD s 0).toNat := by
  have hL : (lens.getD s 0).toNat ≠ 0 := fun he => h (BitVec.eq_of_toNat_eq (by simpa using he))
  unfold codeOf usedCodes countLen
  rw [if_neg hL]
  simp only []
  have : lens.countP (fun l => l.toNat == (lens.getD s 0).toNat) =
    (lens.take s).countP (fun l => l.toNat == (lens.getD s 0).toNat) +
    (lens.drop s).countP (fun l => l.toNat == (lens.getD s 0).toNat) := by
    rw [← List.countP_append, List.take_append_drop]
  have h2 : 0 < (lens.drop s).countP (fun l => l.toNat == (lens.getD s 0).toNat) := by
    rw [List.countP_pos_iff]
    refine ⟨lens[s], ?_, ?_⟩
    · rw [List.mem_drop_iff_getElem]; exact ⟨0, by simpa using hs, by simp⟩
    · rw [List.getD_eq_getElem?_getD, List.getElem?_eq_getElem hs]; simp
  omega

theorem getD_ne_zero_lt {lens : List CodeLen} {s : Nat} (h : lens.getD s 0 ≠ 0) : s < lens.length := by
  rcases Nat.lt_or_ge s lens.length with h' | h'
  · exact h'
  · exact absurd (by rw [List.getD_eq_getElem?_getD, List.getElem?_eq_none h']; rfl) h

theorem classifyFrom_spec (lens : List CodeLen) (fuel L left : Nat) (hL : left + usedCodes lens L = 2 ^ L) :
    (classifyFrom lens fuel (L + 1) left = .overSubscribed → ∃ j, L < j ∧ j ≤ L + fuel ∧ 2 ^ j < usedCodes lens j) ∧
    (classifyFrom lens fuel (L + 1) left = .complete →
      (∀ j, L < j → j ≤ L + fuel → usedCodes lens j ≤ 2 ^ j) ∧ usedCodes lens (L + fuel) = 2 ^ (L + fuel)) ∧
    (classifyFrom lens fuel (L + 1) left = .incomplete →
      (∀ j, L < j → j ≤ L + fuel → usedCodes lens j ≤ 2 ^ j) ∧ usedCodes lens (L + fuel) < 2 ^ (L + fuel)) := by
  induction fuel generalizing L left with
  | zero =>
    unfold classifyFrom
    split
    · exact ⟨nofun, fun _ => ⟨fun j h1 h2 => by omega, by simp; omega⟩, nofun⟩
    · exact ⟨nofun, nofun, fun _ => ⟨fun j h1 h2 => by omega, by simp; omega⟩⟩
  | succ fuel ih =>
    unfold classifyFrom
    have hu := usedCodes_succ lens L
    have hp : 2 ^ (L + 1) = 2 * 2 ^ L := by rw [Nat.pow_succ]; omega
    split
    · exact ⟨fun _ => ⟨L + 1, by omega, by omega, by omega⟩, nofun, nofun⟩
    · rename_i hn
      obtain ⟨h1, h2, h3⟩ := ih (L + 1) (2 * left - countLen lens (L + 1)) (by omega)
      rw [show L + (fuel + 1) = L + 1 + fuel by omega]
      have hle : usedCodes lens (L + 1) ≤ 2 ^ (L + 1) := by omega
      refine ⟨fun h => ?_, fun h => ?_, fun h => ?_⟩
      · obtain ⟨j, a, b, c⟩ := h1 h; exact ⟨j, by omega, b, c⟩
      · obtain ⟨a, b⟩ := h2 h
        refine ⟨fun j hj1 hj2 => ?_, b⟩
        by_cases he : j = L + 1
        · rw [he]; exact hle
        · exact a j (by omega) hj2
      · obtain ⟨a, b⟩ := h3 h
        refine ⟨fun j hj1 hj2 => ?_, b⟩
        by_cases he : j = L + 1
        · rw [he]; exact hle
        · exact a j (by omega) hj2

theorem classify_spec (lens : List CodeLen) :
    (classify lens = .overSubscribed → ∃ j, 0 < j ∧ j ≤ 15 ∧ 2 ^ j < usedCodes lens j) ∧
    (classify lens = .complete → (∀ j, 0 < j → j ≤ 15 → usedCodes lens j ≤ 2 ^ j) ∧ usedCodes lens 15 = 2 ^ 15) ∧
    (classify lens = .incomplete → (∀ j, 0 < j → j ≤ 15 → usedCodes lens j ≤ 2 ^ j) ∧ usedCodes lens 15 < 2 ^ 15) := by
  have := classifyFrom_spec lens 15 0 1 (show 1 + 0 = 1 from rfl)
  simpa [classify] using this

theorem usedCodes_le_of_classify (lens : List CodeLen) (h : classify lens ≠ .overSubscribed) (j : Nat) (hj : j ≤ 15) :
    usedCodes lens j ≤ 2 ^ j := by
  rcases Nat.eq_zero_or_pos j with h0 | h0
  · subst h0; rw [usedCodes_zero]; exact Nat.zero_le _
  · obtain ⟨-, h2, h3⟩ := classify_spec lens
    cases hc : classify lens with
    | overSubscribed => exact absurd hc h
    | complete => exact (h2 hc).1 j h0 hj
    | incomplete => exact (h3 hc).1 j h0 hj

/-- The number whose bits, most significant first, follow those of `c`. -/
def msbValue (c : Nat) (bits : List Bool) : Nat := bits.foldl (fun c b => 2 * c + b.toNat) c

theorem msbValue_append (c : Nat) (bits : List Bool) (b : Bool) :
    msbValue c (bits ++ [b]) = 2 * msbValue c bits + b.toNat := by simp [msbValue]

theorem reverse_fieldBits_msbValue (bits : List Bool) : (fieldBits bits.length (msbValue 0 bits)).reverse = bits := by
  induction h : bits.length generalizing bits with
  | zero => rw [List.length_eq_zero_iff] at h; subst h; rfl
  | succ n ih =>
    rcases List.eq_nil_or_concat bits with rfl | ⟨bs, b, rfl⟩
    · simp at h
    · rw [List.concat_eq_append] at *
      have hl : bs.length = n := by simpa using h
      rw [msbValue_append]
      have h1 : (2 * msbValue 0 bs + b.toNat) % 2 = b.toNat := by have := b.toNat_lt; omega
      have h2 : (2 * msbValue 0 bs + b.toNat) / 2 = msbValue 0 bs := by have := b.toNat_lt; omega
      have h3 : (b.toNat == 1) = b := by cases b <;> rfl
      simp only [fieldBits, h1, h2, h3, List.reverse_cons, ih bs hl]

theorem msbValue_reverse_fieldBits (n v c : Nat) (h : v < 2 ^ n) : msbValue c (fieldBits n v).reverse = c * 2 ^ n + v := by
  induction n generalizing v with
  | zero => simp [fieldBits, msbValue] at *; omega
  | succ n ih =>
    have hp : 2 ^ (n + 1) = 2 * 2 ^ n := by rw [Nat.pow_succ]; omega
    simp only [fieldBits, List.reverse_cons, msbValue_append]
    rw [ih (v / 2) (by omega)]
    have h3 : (v % 2 == 1).toNat = v % 2 := by rcases Nat.mod_two_eq_zero_or_one v with h | h <;> simp [h]
    rw [h3, hp, ← Nat.mul_assoc, Nat.mul_comm c 2, Nat.mul_assoc]; omega

/-- What a decoded symbol is: the bits read are its code (R104). -/
theorem huffFrom_ok (lens : List CodeLen) (fuel L c : Nat) (bits rest : List Bool) (s : Nat)
    (h : huffFrom lens fuel (L + 1) c bits = .ok (s, rest)) :
    ∃ pre, bits = pre ++ rest ∧ 0 < pre.length ∧ s < lens.length ∧ (lens.getD s 0).toNat = L + pre.length ∧
      codeOf lens s = msbValue c pre := by
  induction fuel generalizing L c bits with
  | zero => simp [huffFrom] at h
  | succ fuel ih =>
    cases bits with
    | nil => simp [huffFrom] at h
    | cons b bs =>
      simp only [huffFrom] at h
      cases hs : symbolOfCode lens (L + 1) (2 * c + b.toNat) with
      | some s' =>
        rw [hs] at h
        simp only [Except.ok.injEq, Prod.mk.injEq] at h
        obtain ⟨rfl, rfl⟩ := h
        obtain ⟨h1, h2, h3⟩ := (symbolOfCode_iff ..).1 hs
        exact ⟨[b], rfl, by simp, h1, h2, h3⟩
      | none =>
        rw [hs] at h
        obtain ⟨pre, hp, h0, h1, h2, h3⟩ := ih (L + 1) _ bs h
        exact ⟨b :: pre, by simp [hp], by simp, h1, by rw [h2, List.length_cons]; omega, by simpa [msbValue] using h3⟩

theorem huff_ok (lens : List CodeLen) (bits rest : List Bool) (s : Nat) (h : huff lens bits = .ok (s, rest)) :
    bits = codeBits lens s ++ rest ∧ s < lens.length ∧ lens.getD s 0 ≠ 0 := by
  obtain ⟨pre, hp, h0, h1, h2, h3⟩ := huffFrom_ok lens 15 0 0 bits rest s h
  refine ⟨?_, h1, fun he => ?_⟩
  · have : codeBits lens s = pre := by
      unfold codeBits
      rw [h2, h3, Nat.zero_add]
      exact reverse_fieldBits_msbValue pre
    rw [this]; exact hp
  · rw [he] at h2; simp at h2; omega

/-- The code of a symbol is decoded to it: no shorter code is a first part of it. -/
theorem huffFrom_code (lens : List CodeLen) (s : Nat) (hs : s < lens.length) (rest pre : List Bool) (fuel L c : Nat)
    (hL : (lens.getD s 0).toNat = L + pre.length) (hf : pre.length ≤ fuel) (h0 : 0 < pre.length)
    (hc : codeOf lens s = msbValue c pre) :
    huffFrom lens fuel (L + 1) c (pre ++ rest) = .ok (s, rest) := by
  induction pre generalizing fuel L c with
  | nil => simp at h0
  | cons b bs ih =>
    cases fuel with
    | zero => simp at hf
    | succ fuel =>
      simp only [List.cons_append, huffFrom]
      cases bs with
      | nil =>
        have : symbolOfCode lens (L + 1) (2 * c + b.toNat) = some s :=
          (symbolOfCode_iff ..).2 ⟨hs, hL, hc⟩
        rw [this]; rfl
      | cons b' bs' =>
        have : symbolOfCode lens (L + 1) (2 * c + b.toNat) = none := by
          cases ht : symbolOfCode lens (L + 1) (2 * c + b.toNat) with
          | none => rfl
          | some t =>
            exfalso
            obtain ⟨h1, h2, h3⟩ := (symbolOfCode_iff ..).1 ht
            have ht0 : lens.getD t 0 ≠ 0 := fun he => by rw [he] at h2; simp at h2
            have hlt := codeOf_lt lens t h1 ht0
            rw [h2, h3] at hlt
            have hge := usedCodes_mul_le_firstCode lens (L + 1) bs'.length
            have hfs : firstCode lens (lens.getD s 0).toNat ≤ codeOf lens s := Nat.le_add_right _ _
            have hle : codeOf lens s < (2 * c + b.toNat + 1) * 2 ^ (bs'.length + 1) := by
              rw [hc]
              have key : ∀ (l : List Bool) (c : Nat), msbValue c l < (c + 1) * 2 ^ l.length := by
                intro l
                induction l with
                | nil => intro c; simp [msbValue]
                | cons x xs ihx =>
                  intro c
                  have := ihx (2 * c + x.toNat)
                  have hx := x.toNat_le
                  have hp : 2 ^ (xs.length + 1) = 2 * 2 ^ xs.length := by rw [Nat.pow_succ]; omega
                  have h5 : (2 * c + x.toNat + 1) * 2 ^ xs.length ≤ (2 * (c + 1)) * 2 ^ xs.length :=
                    Nat.mul_le_mul_right _ (by omega)
                  simp only [List.length_cons, hp]
                  rw [← Nat.mul_assoc, Nat.mul_comm (c + 1) 2]
                  exact Nat.lt_of_lt_of_le (by simpa [msbValue] using this) h5
              have := key (b' :: bs') (2 * c + b.toNat)
              simpa [msbValue] using this
            have hL' : L + 1 + bs'.length + 1 = (lens.getD s 0).toNat := by rw [hL]; simp; omega
            rw [hL'] at hge
            have h6 : usedCodes lens (L + 1) * 2 ^ (bs'.length + 1) < (2 * c + b.toNat + 1) * 2 ^ (bs'.length + 1) := by omega
            have := Nat.lt_of_mul_lt_mul_right h6
            omega
        rw [this]
        refine ih fuel (L + 1) (2 * c + b.toNat) ?_ ?_ (by simp) (by simpa [msbValue] using hc)
        · rw [hL]; simp; omega
        · simp at hf ⊢; omega

theorem huff_code (lens : List CodeLen) (s : Nat) (hn : classify lens ≠ .overSubscribed) (h : lens.getD s 0 ≠ 0)
    (rest : List Bool) : huff lens (codeBits lens s ++ rest) = .ok (s, rest) := by
  have hs := getD_ne_zero_lt h
  have h15 : (lens.getD s 0).toNat ≤ 15 := by have := (lens.getD s 0).isLt; omega
  have hlt : codeOf lens s < 2 ^ (lens.getD s 0).toNat :=
    Nat.lt_of_lt_of_le (codeOf_lt lens s hs h) (usedCodes_le_of_classify lens hn _ h15)
  have hpos : 0 < (lens.getD s 0).toNat := by
    rcases Nat.eq_zero_or_pos (lens.getD s 0).toNat with h0 | h0
    · exact absurd (BitVec.eq_of_toNat_eq (by simpa using h0)) h
    · exact h0
  refine huffFrom_code lens s hs rest (codeBits lens s) 15 0 0 (by simp) (by simpa using h15) (by simpa using hpos) ?_
  unfold codeBits
  rw [msbValue_reverse_fieldBits _ _ _ hlt]; omega

end Sys2Proof
end

