-- ==== Sys2Proof/Laws/Lengths.lean ====
section
/-! SUPPORT. What the code-length elements write into the length arrays (41_blocks_and_tables.md R158 to R161). -/

namespace Sys2Proof.Machine

open Sys2Proof

/-- The entries appending lengths writes: the `n` entries of the one sequence from `lidx` on (R23, R158). -/
theorem Inf.appendLens_getD (n : Nat) (v : CodeLen) (u : Inf) :
    (∀ j, j < u.llLen.length → (u.appendLens n v).llLen.getD j 0 =
      if u.lidx ≤ j ∧ j < u.lidx + n ∧ j < u.nlen then v else u.llLen.getD j 0) ∧
    (∀ j, j < u.dLen.length → (u.appendLens n v).dLen.getD j 0 =
      if u.lidx ≤ u.nlen + j ∧ u.nlen + j < u.lidx + n then v else u.dLen.getD j 0) := by
  induction n generalizing u with
  | zero =>
    refine ⟨fun j hj => ?_, fun j hj => ?_⟩ <;> simp only [Inf.appendLens] <;> rw [if_neg (by omega)]
  | succ n ih =>
    obtain ⟨h1, h2⟩ := ih { u.setLen u.lidx v with lidx := u.lidx + 1 }
    simp only [Inf.appendLens]
    have hn : (u.setLen u.lidx v).nlen = u.nlen := by rw [Inf.setLen_regs]
    have hll : (u.setLen u.lidx v).llLen = if u.lidx < u.nlen then u.llLen.set u.lidx v else u.llLen := by
      rw [Inf.setLen_regs]
    have hd : (u.setLen u.lidx v).dLen = if u.lidx < u.nlen then u.dLen else u.dLen.set (u.lidx - u.nlen) v := by
      rw [Inf.setLen_regs]
    have hset : ∀ (l : List CodeLen) (i j : Nat), j < l.length → (l.set i v).getD j 0 = if j = i then v else l.getD j 0 := by
      intro l i j hj
      simp only [List.getD_eq_getElem?_getD, List.getElem?_set]
      by_cases h : i = j
      · subst h; simp [hj]
      · rw [if_neg h, if_neg (Ne.symm h)]
    constructor
    · intro j hj
      have hlen : j < (u.setLen u.lidx v).llLen.length := by rw [hll]; split <;> simpa using hj
      rw [h1 j hlen]
      simp only [hn, hll]
      by_cases h : u.lidx < u.nlen
      · rw [if_pos h, hset _ _ _ hj]
        by_cases hji : j = u.lidx
        · subst hji; rw [if_neg (by omega), if_pos rfl, if_pos (by omega)]
        · rw [if_neg hji]
          by_cases hin : u.lidx + 1 ≤ j ∧ j < u.lidx + 1 + n ∧ j < u.nlen
          · rw [if_pos hin, if_pos (by omega)]
          · rw [if_neg hin, if_neg (by omega)]
      · rw [if_neg h, if_neg (by omega), if_neg (by omega)]
    · intro j hj
      have hlen : j < (u.setLen u.lidx v).dLen.length := by rw [hd]; split <;> simpa using hj
      rw [h2 j hlen]
      simp only [hn, hd]
      by_cases h : u.lidx < u.nlen
      · rw [if_pos h]
        by_cases hin : u.lidx + 1 ≤ u.nlen + j ∧ u.nlen + j < u.lidx + 1 + n
        · rw [if_pos hin, if_pos (by omega)]
        · rw [if_neg hin, if_neg (by omega)]
      · rw [if_neg h, hset _ _ _ hj]
        by_cases hji : j = u.lidx - u.nlen
        · subst hji; rw [if_neg (by omega), if_pos rfl, if_pos (by omega)]
        · rw [if_neg hji]
          by_cases hin : u.lidx + 1 ≤ u.nlen + j ∧ u.nlen + j < u.lidx + 1 + n
          · rw [if_pos hin, if_pos (by omega)]
          · rw [if_neg hin, if_neg (by omega)]

/-- Two lists of one length with the same entries are equal. -/
theorem lens_ext {l m : List CodeLen} (n : Nat) (hl : l.length = n) (hm : m.length = n) (h : ∀ j < n, l.getD j 0 = m.getD j 0) :
    l = m := by
  apply List.ext_getElem (hl.trans hm.symm)
  intro j h1 h2
  have := h j (hl ▸ h1)
  simpa [List.getD_eq_getElem?_getD, List.getElem?_eq_getElem h1, List.getElem?_eq_getElem h2] using this

/-- Where the arrays `ll` and `d` are the appended ones, so is the unit. -/
theorem Inf.appendLens_eq (n : Nat) (v : CodeLen) (u : Inf) (ll d : List CodeLen)
    (a : u.llLen.length = 288) (b : u.dLen.length = 32) (c : ll.length = 288) (e : d.length = 32)
    (h1 : ∀ j < 288, ll.getD j 0 = if u.lidx ≤ j ∧ j < u.lidx + n ∧ j < u.nlen then v else u.llLen.getD j 0)
    (h2 : ∀ j < 32, d.getD j 0 = if u.lidx ≤ u.nlen + j ∧ u.nlen + j < u.lidx + n then v else u.dLen.getD j 0) :
    u.appendLens n v = { u with lidx := u.lidx + n, llLen := ll, dLen := d } := by
  obtain ⟨r1, r2, r3, r4⟩ := Inf.appendLens_regs n v u
  obtain ⟨g1, g2⟩ := Inf.appendLens_getD n v u
  rw [r4, r1]
  have e1 : (u.appendLens n v).llLen = ll := lens_ext 288 (r2.trans a) c fun j hj => by rw [g1 j (a ▸ hj), h1 j hj]
  have e2 : (u.appendLens n v).dLen = d := lens_ext 32 (r3.trans b) e fun j hj => by rw [g2 j (b ▸ hj), h2 j hj]
  rw [e1, e2]

/-- What a code-length element does whose count does not run past the sequence, with its bits there: it appends its entries,
whatever arrays `ll` and `d` hold them, and then may complete the tables (R158 to R161). -/
theorem exec_codeLength_appends (i : Instr) (sym k x r : Nat) (p : CodeLen) (s : State) (ll d : List CodeLen)
    (hi : i.coded = some ⟨.codeLength, sym, k, x⟩)
    (hr : r = if sym < 16 then 1 else if sym = 16 then 3 + x else if sym = 17 then 3 + x else 11 + x)
    (hp : p = if sym < 16 then BitVec.ofNat 4 sym else s.inf.seqLen (s.inf.lidx - 1))
    (hb : s.inf.bitpos + (s.inf.clLen.getD sym 0).toNat + k ≤ 8 * s.inf.inLen) (h16 : sym = 16 → s.inf.lidx ≠ 0)
    (hle : s.inf.lidx + r ≤ s.inf.nlen + s.inf.ndist)
    (a : s.inf.llLen.length = 288) (b : s.inf.dLen.length = 32) (c : ll.length = 288) (e : d.length = 32)
    (h1 : ∀ j < 288, ll.getD j 0 =
      if sym ≤ 16 ∧ s.inf.lidx ≤ j ∧ j < s.inf.lidx + r ∧ j < s.inf.nlen then p else s.inf.llLen.getD j 0)
    (h2 : ∀ j < 32, d.getD j 0 =
      if sym ≤ 16 ∧ s.inf.lidx ≤ s.inf.nlen + j ∧ s.inf.nlen + j < s.inf.lidx + r then p else s.inf.dLen.getD j 0) :
    exec i s = .next { s with inf := (Inf.endLens s.params.incomplete s.inf.begin
      { s.inf.consumed ((s.inf.clLen.getD sym 0).toNat + k) with lidx := s.inf.lidx + r, llLen := ll, dLen := d }) } := by
  obtain ⟨q1, q2, q3, q4⟩ := exec_codeLength i sym k x s hi
  rw [q4]
  by_cases hs : sym < 16
  · rw [if_pos hs]
    rw [if_pos hs] at hr hp
    have hk : k = 0 := by
      rw [q2]; unfold clExtra; split <;> first | rfl | omega
    subst hk
    refine congrArg (fun v => Host.Outcome.next ({ s with inf := v } : State)) ?_
    unfold Inf.clExplicit
    dsimp only
    rw [Inf.take_of_le _ _ s.inf.begin (show s.inf.bitpos + (s.inf.clLen.getD sym 0).toNat ≤ 8 * s.inf.inLen from hb)]
    refine congrArg _ ?_
    subst hr hp
    refine (Inf.appendLens_eq 1 (BitVec.ofNat 4 sym) (s.inf.begin.advance _) ll d a b c e ?_ ?_).trans ?_
    · intro j hj; rw [h1 j hj]; have : sym ≤ 16 := by omega
      simp only [this, true_and]; rfl
    · intro j hj; rw [h2 j hj]; have : sym ≤ 16 := by omega
      simp only [this, true_and]; rfl
    · rfl
  · rw [if_neg hs]
    rw [if_neg hs] at hr hp
    by_cases hs6 : sym = 16
    · subst hs6
      rw [if_pos rfl]
      rw [if_pos rfl] at hr
      have hk : k = 2 := q2
      subst hk
      refine congrArg (fun v => Host.Outcome.next ({ s with inf := v } : State)) ?_
      unfold Inf.clRepeat
      dsimp only
      rw [Inf.take_of_le _ _ _ (by show s.inf.bitpos + (s.inf.clLen.getD 16 0).toNat ≤ 8 * s.inf.inLen; omega)]
      refine (if_neg (show ¬ s.inf.lidx = 0 from h16 rfl)).trans ?_
      refine (Inf.take_of_le _ _ (Inf.advance _ s.inf.begin) (show s.inf.bitpos + (s.inf.clLen.getD 16 0).toNat + 2 ≤ 8 * s.inf.inLen by omega)).trans ?_
      refine (if_neg (show ¬ s.inf.nlen + s.inf.ndist < s.inf.lidx + (3 + x) by omega)).trans ?_
      refine congrArg _ ?_
      subst hr hp
      refine (Inf.appendLens_eq (3 + x) (s.inf.seqLen (s.inf.lidx - 1)) ((s.inf.begin.advance _).advance _) ll d a b c e ?_ ?_).trans ?_
      · intro j hj; rw [h1 j hj]; simp only [Nat.le_refl, true_and]; rfl
      · intro j hj; rw [h2 j hj]; simp only [Nat.le_refl, true_and]; rfl
      · rfl
    · rw [if_neg hs6]
      rw [if_neg hs6] at hr
      have hll : ll = s.inf.llLen := lens_ext 288 c a fun j hj => by rw [h1 j hj, if_neg (by omega)]
      have hd : d = s.inf.dLen := lens_ext 32 e b fun j hj => by rw [h2 j hj, if_neg (by omega)]
      subst hll hd
      have hbase : clBase sym + x = r := by
        have : sym = 17 ∨ sym = 18 := by omega
        rcases this with rfl | rfl <;> simp [clBase, hr]
      refine congrArg (fun v => Host.Outcome.next ({ s with inf := v } : State)) ?_
      unfold Inf.clZeros
      dsimp only
      rw [← q2, Inf.take_of_le _ _ _ (by show s.inf.bitpos + ((s.inf.clLen.getD sym 0).toNat + k) ≤ 8 * s.inf.inLen; omega), hbase]
      exact if_neg (show ¬ s.inf.nlen + s.inf.ndist < s.inf.lidx + r by omega)

end Sys2Proof.Machine
end

