-- ==== Sys2Proof/Laws/Output.lean ====
section
/-! SUPPORT. What the operations that emit bytes emit: one byte, a stored block, a match (42_symbols_lz77.md R190, R199;
41_blocks_and_tables.md R155). -/

namespace Sys2Proof.Machine

open Sys2Proof

/-- Emitting nothing. -/
theorem Inf.emitted_nil (u : Inf) : Inf.emitted [] u u := by
  refine ⟨rfl, rfl, fun j => ?_, fun k hk => absurd hk (Nat.not_lt_zero k), fun _ _ => rfl⟩
  rw [if_neg]
  simp only [List.length_nil]; omega

/-- Emitting one more byte. -/
theorem Inf.emitted_emit (bs : List Byte) (b : Byte) (u v : Inf) (h : Inf.emitted bs u v) :
    Inf.emitted (bs ++ [b]) u (v.emit b) := by
  obtain ⟨h1, h2, h3, h4, h5⟩ := h
  have hc : v.outCount = u.outCount + bs.length := by rw [h1]
  have hl : (bs ++ [b]).length = bs.length + 1 := by rw [List.length_append]; rfl
  refine ⟨?_, ?_, fun j => ?_, fun k hk hw => ?_, fun a ha => ?_⟩
  · rw [hl]
    show { v with
      out := Memory.write none v.out v.outCount b, win := Memory.write none v.win (v.outCount % wsize) b,
      s1 := adlerS1 v.s1 b, s2 := adlerS2 v.s1 v.s2 b, outCount := v.outCount + 1 } = _
    rw [h1]
    rfl
  · rw [List.foldl_append, ← h2]
    show (adlerS1 v.s1 b, adlerS2 v.s1 v.s2 b) = adlerUpdate (v.s1, v.s2) b
    unfold adlerUpdate adlerS2 adlerS1 adlerMod
    have : (v.s1.toNat + b.toNat) % 65521 < 2 ^ 16 := by omega
    simp only [BitVec.toNat_ofNat, Nat.mod_eq_of_lt this]
  · rw [Inf.emit_find_out, hc, hl]
    by_cases hj : j = u.outCount + bs.length
    · subst hj
      rw [if_pos rfl, if_pos (by omega), Nat.add_sub_cancel_left, List.getElem?_append_right (Nat.le_refl _), Nat.sub_self]
      rfl
    · rw [if_neg hj, h3]
      by_cases hr : u.outCount ≤ j ∧ j < u.outCount + bs.length
      · rw [if_pos hr, if_pos (by omega), List.getElem?_append_left (by omega)]
      · rw [if_neg hr, if_neg (by omega)]
  · rw [hl] at hk hw
    rw [Inf.emit_find_win, hc]
    by_cases hkb : k = bs.length
    · subst hkb
      rw [if_pos rfl, List.getElem?_append_right (Nat.le_refl _), Nat.sub_self]
      rfl
    · rw [if_neg (by simp only [wsize] at *; omega), h4 k (by omega) (by omega), List.getElem?_append_left (by omega)]
  · rw [Inf.emit_find_win, hc, if_neg (fun he => ha bs.length (by rw [hl]; omega) he.symm)]
    exact h5 a fun k hk => ha k (by rw [hl]; omega)

/-- What copying a match emits (R199): with the window a view of the output, byte `k` is the output byte `dist` before
it, that is byte `k mod dist` of the last `dist` bytes before the match. -/
theorem Inf.copyMatch_emitted (u v : Inf) (dist m n : Nat) (h0 : 0 < dist) (hw : dist ≤ wsize) (hd : dist ≤ u.outCount)
    (hv : v.windowInv)
    (h : Inf.emitted ((List.range m).map fun k => u.outByte (u.outCount - dist + k % dist)) u v) :
    Inf.emitted ((List.range (m + n)).map fun k => u.outByte (u.outCount - dist + k % dist)) u (v.copyMatch n dist) := by
  induction n generalizing m v with
  | zero => exact h
  | succ n ih =>
    have hc : v.outCount = u.outCount + m := by have := h.1; rw [this]; simp
    have hep : v.epoch = u.epoch := by rw [h.1]
    have hb : v.winByte ((v.outCount - dist) % wsize) = u.outByte (u.outCount - dist + m % dist) := by
      obtain ⟨w1, w2⟩ := hv (v.outCount - dist) (by omega) (by omega)
      have hlen : ((List.range m).map fun k => u.outByte (u.outCount - dist + k % dist)).length = m := by simp
      have h3 := h.2.2.1 (v.outCount - dist)
      rw [hlen] at h3
      obtain ⟨x, hx⟩ := Option.isSome_iff_exists.1 w1
      have hwx : v.winByte ((v.outCount - dist) % wsize) = x := by unfold Inf.winByte; rw [w2, hx]; rfl
      rw [hwx]
      by_cases hm : m < dist
      · rw [if_neg (by omega), hx] at h3
        rw [Nat.mod_eq_of_lt hm]
        unfold Inf.outByte
        rw [show u.outCount - dist + m = v.outCount - dist by omega, ← h3]; rfl
      · rw [if_pos (by omega), hx] at h3
        have hk : v.outCount - dist - u.outCount = m - dist := by omega
        rw [hk, List.getElem?_map, List.getElem?_range (by omega)] at h3
        have := Option.some.inj h3
        rw [this]
        have hmod : (m - dist) % dist = m % dist := (Nat.mod_eq_sub_mod (by omega)).symm
        simp only [hmod]
    have hs := Inf.emitted_emit _ (v.winByte ((v.outCount - dist) % wsize)) u v h
    rw [hb, show (List.range m).map (fun k => u.outByte (u.outCount - dist + k % dist)) ++ [u.outByte (u.outCount - dist + m % dist)] = (List.range (m + 1)).map (fun k => u.outByte (u.outCount - dist + k % dist)) by rw [List.range_succ, List.map_append]; rfl] at hs
    have := ih (v.emit (v.winByte ((v.outCount - dist) % wsize))) (m + 1) (Inf.emit_windowInv _ _ hv) (by rw [hb]; exact hs)
    rw [show m + (n + 1) = m + 1 + n by omega]
    exact this

/-- What copying a stored block emits (R155). -/
theorem Inf.copyStored_emitted (u v : Inf) (m n : Nat) (hin : v.input = u.input) (hep : v.epoch = u.epoch) (h8 : v.bitpos = u.bitpos + 8 * m)
    (h : Inf.emitted ((List.range m).map fun k => u.inByte (u.bitpos / 8 + k)) u { v with bitpos := u.bitpos }) :
    Inf.emitted ((List.range (m + n)).map fun k => u.inByte (u.bitpos / 8 + k)) u
      { v.copyStored n with bitpos := u.bitpos } := by
  induction n generalizing m v with
  | zero => exact h
  | succ n ih =>
    have hb : v.inByte (v.bitpos / 8) = u.inByte (u.bitpos / 8 + m) := by
      unfold Inf.inByte
      rw [hin, hep, h8, show (u.bitpos + 8 * m) / 8 = u.bitpos / 8 + m by omega]
    have hs := Inf.emitted_emit _ (v.inByte (v.bitpos / 8)) u _ h
    have hl : (List.range m).map (fun k => u.inByte (u.bitpos / 8 + k)) ++ [u.inByte (u.bitpos / 8 + m)] = (List.range (m + 1)).map (fun k => u.inByte (u.bitpos / 8 + k)) := by
      rw [List.range_succ, List.map_append]; rfl
    rw [hb, hl] at hs
    rw [show m + (n + 1) = m + 1 + n by omega]
    refine ih ((v.emit (v.inByte (v.bitpos / 8))).advance 8) (m + 1) hin hep ?_ ?_
    · show v.bitpos + 8 = _; omega
    · rw [hb]; exact hs

end Sys2Proof.Machine
end

