-- ==== Sys2Proof/Laws/PerInstr.lean ====
section
/-! SUPPORT. A statement about every instruction as syntax, with one lemma per constructor: how many bits its encoding has. -/

namespace Sys2Proof

/-- The number of bits of an element in context `c` (30_encoding.md R90): the code and the extra bits of a Huffman-coded
element, the pad and the fields of the others, 32 bits for a register write. -/
def encodedBits (c : Ctx) (i : Instr) : Nat :=
  match i with
  | .zhdr _ _ => 16
  | .blkStored _ | .blkFixed _ | .blkDyn _ | .blkRsv _ => 3
  | .stored _ _ | .ztrailer _ => c.pad + 32
  | .dynhdr _ _ _ => 14
  | .clens lens => 3 * lens.length
  | .tables | .defEnd => 0
  | .ft0 | .ft1 | .ft2 | .ft3 | .ft4 | .ftInvalid _ => 8
  | .init | .byte _ | .check _ | .infStart | .defStart | .infReset | .crcReset | .defReset => 32
  | .cl0 | .cl1 | .cl2 | .cl3 | .cl4 | .cl5 | .cl6 | .cl7 | .cl8 | .cl9 | .cl10 | .cl11
  | .cl12 | .cl13 | .cl14 | .cl15 | .cl16 _ | .cl17 _ | .cl18 _ | .lit _ | .eob | .len257 | .len258 | .len259
  | .len260 | .len261 | .len262 | .len263 | .len264 | .len265 _ | .len266 _ | .len267 _ | .len268 _ | .len269 _ | .len270 _ | .len271 _
  | .len272 _ | .len273 _ | .len274 _ | .len275 _ | .len276 _ | .len277 _ | .len278 _ | .len279 _ | .len280 _ | .len281 _ | .len282 _ | .len283 _
  | .len284 _ | .len285 | .rsv286 | .rsv287 | .dist0 | .dist1 | .dist2 | .dist3 | .dist4 _ | .dist5 _ | .dist6 _ | .dist7 _
  | .dist8 _ | .dist9 _ | .dist10 _ | .dist11 _ | .dist12 _ | .dist13 _ | .dist14 _ | .dist15 _ | .dist16 _ | .dist17 _ | .dist18 _ | .dist19 _
  | .dist20 _ | .dist21 _ | .dist22 _ | .dist23 _ | .dist24 _ | .dist25 _ | .dist26 _ | .dist27 _ | .dist28 _ | .dist29 _ | .rsv30 | .rsv31 =>
    match i.coded with
    | some k => (c.lens.getD k.sym 0).toNat + k.xbits
    | none => 0

/-- The encoding of an instruction has the length R90 gives it, in every context. -/
def Laws.EncodedLength.Statement (i : Instr) : Prop := ∀ c : Ctx, (encode c i).length = encodedBits c i

/-- A code and its extra bits are as long as the symbol's length and the number of extra bits. -/
theorem length_coded (lens : List CodeLen) (k : Coded) :
    (codeBits lens k.sym ++ fieldBits k.xbits k.x).length = (lens.getD k.sym 0).toNat + k.xbits := by
  simp

/-- Two and more fields one after the other. -/
theorem length_fields (l r : List Bool) (m n : Nat) (hl : l.length = m) (hr : r.length = n) : (l ++ r).length = m + n := by
  simp [hl, hr]

/-- The 3-bit fields of a list of lengths are three times as many bits. -/
theorem length_flatMap_fieldBits (lens : List (BitVec 3)) :
    (lens.flatMap fun l => fieldBits 3 l.toNat).length = 3 * lens.length := by
  induction lens with
  | nil => rfl
  | cons l ls ih => simp [ih]; omega

theorem Laws.EncodedLength.zhdr (cmf flg : Byte) : Laws.EncodedLength.Statement (.zhdr cmf flg) :=
  fun _ => length_fields _ _ 8 8 (length_fieldBits _ _) (length_fieldBits _ _)
theorem Laws.EncodedLength.blkStored (bfinal : Bool) : Laws.EncodedLength.Statement (.blkStored bfinal) :=
  fun _ => length_fields _ _ 1 2 (length_fieldBits _ _) (length_fieldBits _ _)
theorem Laws.EncodedLength.blkFixed (bfinal : Bool) : Laws.EncodedLength.Statement (.blkFixed bfinal) :=
  fun _ => length_fields _ _ 1 2 (length_fieldBits _ _) (length_fieldBits _ _)
theorem Laws.EncodedLength.blkDyn (bfinal : Bool) : Laws.EncodedLength.Statement (.blkDyn bfinal) :=
  fun _ => length_fields _ _ 1 2 (length_fieldBits _ _) (length_fieldBits _ _)
theorem Laws.EncodedLength.blkRsv (bfinal : Bool) : Laws.EncodedLength.Statement (.blkRsv bfinal) :=
  fun _ => length_fields _ _ 1 2 (length_fieldBits _ _) (length_fieldBits _ _)
theorem Laws.EncodedLength.stored (len nlen : BitVec 16) : Laws.EncodedLength.Statement (.stored len nlen) :=
  fun c => length_fields _ _ (c.pad + 16) 16 (length_fields _ _ _ _ List.length_replicate (length_fieldBits _ _)) (length_fieldBits _ _)
theorem Laws.EncodedLength.dynhdr (hlit hdist : BitVec 5) (hclen : BitVec 4) : Laws.EncodedLength.Statement (.dynhdr hlit hdist hclen) :=
  fun _ => length_fields _ _ 10 4 (length_fields _ _ 5 5 (length_fieldBits _ _) (length_fieldBits _ _)) (length_fieldBits _ _)
theorem Laws.EncodedLength.clens (lens : List (BitVec 3)) : Laws.EncodedLength.Statement (.clens lens) :=
  fun _ => length_flatMap_fieldBits lens
theorem Laws.EncodedLength.cl0 : Laws.EncodedLength.Statement .cl0 :=
  fun c => length_coded c.lens ⟨.codeLength, 0, 0, 0⟩
theorem Laws.EncodedLength.cl1 : Laws.EncodedLength.Statement .cl1 :=
  fun c => length_coded c.lens ⟨.codeLength, 1, 0, 0⟩
theorem Laws.EncodedLength.cl2 : Laws.EncodedLength.Statement .cl2 :=
  fun c => length_coded c.lens ⟨.codeLength, 2, 0, 0⟩
theorem Laws.EncodedLength.cl3 : Laws.EncodedLength.Statement .cl3 :=
  fun c => length_coded c.lens ⟨.codeLength, 3, 0, 0⟩
theorem Laws.EncodedLength.cl4 : Laws.EncodedLength.Statement .cl4 :=
  fun c => length_coded c.lens ⟨.codeLength, 4, 0, 0⟩
theorem Laws.EncodedLength.cl5 : Laws.EncodedLength.Statement .cl5 :=
  fun c => length_coded c.lens ⟨.codeLength, 5, 0, 0⟩
theorem Laws.EncodedLength.cl6 : Laws.EncodedLength.Statement .cl6 :=
  fun c => length_coded c.lens ⟨.codeLength, 6, 0, 0⟩
theorem Laws.EncodedLength.cl7 : Laws.EncodedLength.Statement .cl7 :=
  fun c => length_coded c.lens ⟨.codeLength, 7, 0, 0⟩
theorem Laws.EncodedLength.cl8 : Laws.EncodedLength.Statement .cl8 :=
  fun c => length_coded c.lens ⟨.codeLength, 8, 0, 0⟩
theorem Laws.EncodedLength.cl9 : Laws.EncodedLength.Statement .cl9 :=
  fun c => length_coded c.lens ⟨.codeLength, 9, 0, 0⟩
theorem Laws.EncodedLength.cl10 : Laws.EncodedLength.Statement .cl10 :=
  fun c => length_coded c.lens ⟨.codeLength, 10, 0, 0⟩
theorem Laws.EncodedLength.cl11 : Laws.EncodedLength.Statement .cl11 :=
  fun c => length_coded c.lens ⟨.codeLength, 11, 0, 0⟩
theorem Laws.EncodedLength.cl12 : Laws.EncodedLength.Statement .cl12 :=
  fun c => length_coded c.lens ⟨.codeLength, 12, 0, 0⟩
theorem Laws.EncodedLength.cl13 : Laws.EncodedLength.Statement .cl13 :=
  fun c => length_coded c.lens ⟨.codeLength, 13, 0, 0⟩
theorem Laws.EncodedLength.cl14 : Laws.EncodedLength.Statement .cl14 :=
  fun c => length_coded c.lens ⟨.codeLength, 14, 0, 0⟩
theorem Laws.EncodedLength.cl15 : Laws.EncodedLength.Statement .cl15 :=
  fun c => length_coded c.lens ⟨.codeLength, 15, 0, 0⟩
theorem Laws.EncodedLength.cl16 (x : BitVec 2) : Laws.EncodedLength.Statement (.cl16 x) :=
  fun c => length_coded c.lens ⟨.codeLength, 16, 2, x.toNat⟩
theorem Laws.EncodedLength.cl17 (x : BitVec 3) : Laws.EncodedLength.Statement (.cl17 x) :=
  fun c => length_coded c.lens ⟨.codeLength, 17, 3, x.toNat⟩
theorem Laws.EncodedLength.cl18 (x : BitVec 7) : Laws.EncodedLength.Statement (.cl18 x) :=
  fun c => length_coded c.lens ⟨.codeLength, 18, 7, x.toNat⟩
theorem Laws.EncodedLength.tables : Laws.EncodedLength.Statement .tables :=
  fun _ => rfl
theorem Laws.EncodedLength.lit (v : Byte) : Laws.EncodedLength.Statement (.lit v) :=
  fun c => length_coded c.lens ⟨.literalLength, v.toNat, 0, 0⟩
theorem Laws.EncodedLength.eob : Laws.EncodedLength.Statement .eob :=
  fun c => length_coded c.lens ⟨.literalLength, 256, 0, 0⟩
theorem Laws.EncodedLength.len257 : Laws.EncodedLength.Statement .len257 :=
  fun c => length_coded c.lens ⟨.literalLength, 257, 0, 0⟩
theorem Laws.EncodedLength.len258 : Laws.EncodedLength.Statement .len258 :=
  fun c => length_coded c.lens ⟨.literalLength, 258, 0, 0⟩
theorem Laws.EncodedLength.len259 : Laws.EncodedLength.Statement .len259 :=
  fun c => length_coded c.lens ⟨.literalLength, 259, 0, 0⟩
theorem Laws.EncodedLength.len260 : Laws.EncodedLength.Statement .len260 :=
  fun c => length_coded c.lens ⟨.literalLength, 260, 0, 0⟩
theorem Laws.EncodedLength.len261 : Laws.EncodedLength.Statement .len261 :=
  fun c => length_coded c.lens ⟨.literalLength, 261, 0, 0⟩
theorem Laws.EncodedLength.len262 : Laws.EncodedLength.Statement .len262 :=
  fun c => length_coded c.lens ⟨.literalLength, 262, 0, 0⟩
theorem Laws.EncodedLength.len263 : Laws.EncodedLength.Statement .len263 :=
  fun c => length_coded c.lens ⟨.literalLength, 263, 0, 0⟩
theorem Laws.EncodedLength.len264 : Laws.EncodedLength.Statement .len264 :=
  fun c => length_coded c.lens ⟨.literalLength, 264, 0, 0⟩
theorem Laws.EncodedLength.len265 (x : BitVec 1) : Laws.EncodedLength.Statement (.len265 x) :=
  fun c => length_coded c.lens ⟨.literalLength, 265, 1, x.toNat⟩
theorem Laws.EncodedLength.len266 (x : BitVec 1) : Laws.EncodedLength.Statement (.len266 x) :=
  fun c => length_coded c.lens ⟨.literalLength, 266, 1, x.toNat⟩
theorem Laws.EncodedLength.len267 (x : BitVec 1) : Laws.EncodedLength.Statement (.len267 x) :=
  fun c => length_coded c.lens ⟨.literalLength, 267, 1, x.toNat⟩
theorem Laws.EncodedLength.len268 (x : BitVec 1) : Laws.EncodedLength.Statement (.len268 x) :=
  fun c => length_coded c.lens ⟨.literalLength, 268, 1, x.toNat⟩
theorem Laws.EncodedLength.len269 (x : BitVec 2) : Laws.EncodedLength.Statement (.len269 x) :=
  fun c => length_coded c.lens ⟨.literalLength, 269, 2, x.toNat⟩
theorem Laws.EncodedLength.len270 (x : BitVec 2) : Laws.EncodedLength.Statement (.len270 x) :=
  fun c => length_coded c.lens ⟨.literalLength, 270, 2, x.toNat⟩
theorem Laws.EncodedLength.len271 (x : BitVec 2) : Laws.EncodedLength.Statement (.len271 x) :=
  fun c => length_coded c.lens ⟨.literalLength, 271, 2, x.toNat⟩
theorem Laws.EncodedLength.len272 (x : BitVec 2) : Laws.EncodedLength.Statement (.len272 x) :=
  fun c => length_coded c.lens ⟨.literalLength, 272, 2, x.toNat⟩
theorem Laws.EncodedLength.len273 (x : BitVec 3) : Laws.EncodedLength.Statement (.len273 x) :=
  fun c => length_coded c.lens ⟨.literalLength, 273, 3, x.toNat⟩
theorem Laws.EncodedLength.len274 (x : BitVec 3) : Laws.EncodedLength.Statement (.len274 x) :=
  fun c => length_coded c.lens ⟨.literalLength, 274, 3, x.toNat⟩
theorem Laws.EncodedLength.len275 (x : BitVec 3) : Laws.EncodedLength.Statement (.len275 x) :=
  fun c => length_coded c.lens ⟨.literalLength, 275, 3, x.toNat⟩
theorem Laws.EncodedLength.len276 (x : BitVec 3) : Laws.EncodedLength.Statement (.len276 x) :=
  fun c => length_coded c.lens ⟨.literalLength, 276, 3, x.toNat⟩
theorem Laws.EncodedLength.len277 (x : BitVec 4) : Laws.EncodedLength.Statement (.len277 x) :=
  fun c => length_coded c.lens ⟨.literalLength, 277, 4, x.toNat⟩
theorem Laws.EncodedLength.len278 (x : BitVec 4) : Laws.EncodedLength.Statement (.len278 x) :=
  fun c => length_coded c.lens ⟨.literalLength, 278, 4, x.toNat⟩
theorem Laws.EncodedLength.len279 (x : BitVec 4) : Laws.EncodedLength.Statement (.len279 x) :=
  fun c => length_coded c.lens ⟨.literalLength, 279, 4, x.toNat⟩
theorem Laws.EncodedLength.len280 (x : BitVec 4) : Laws.EncodedLength.Statement (.len280 x) :=
  fun c => length_coded c.lens ⟨.literalLength, 280, 4, x.toNat⟩
theorem Laws.EncodedLength.len281 (x : BitVec 5) : Laws.EncodedLength.Statement (.len281 x) :=
  fun c => length_coded c.lens ⟨.literalLength, 281, 5, x.toNat⟩
theorem Laws.EncodedLength.len282 (x : BitVec 5) : Laws.EncodedLength.Statement (.len282 x) :=
  fun c => length_coded c.lens ⟨.literalLength, 282, 5, x.toNat⟩
theorem Laws.EncodedLength.len283 (x : BitVec 5) : Laws.EncodedLength.Statement (.len283 x) :=
  fun c => length_coded c.lens ⟨.literalLength, 283, 5, x.toNat⟩
theorem Laws.EncodedLength.len284 (x : BitVec 5) : Laws.EncodedLength.Statement (.len284 x) :=
  fun c => length_coded c.lens ⟨.literalLength, 284, 5, x.toNat⟩
theorem Laws.EncodedLength.len285 : Laws.EncodedLength.Statement .len285 :=
  fun c => length_coded c.lens ⟨.literalLength, 285, 0, 0⟩
theorem Laws.EncodedLength.rsv286 : Laws.EncodedLength.Statement .rsv286 :=
  fun c => length_coded c.lens ⟨.literalLength, 286, 0, 0⟩
theorem Laws.EncodedLength.rsv287 : Laws.EncodedLength.Statement .rsv287 :=
  fun c => length_coded c.lens ⟨.literalLength, 287, 0, 0⟩
theorem Laws.EncodedLength.dist0 : Laws.EncodedLength.Statement .dist0 :=
  fun c => length_coded c.lens ⟨.distance, 0, 0, 0⟩
theorem Laws.EncodedLength.dist1 : Laws.EncodedLength.Statement .dist1 :=
  fun c => length_coded c.lens ⟨.distance, 1, 0, 0⟩
theorem Laws.EncodedLength.dist2 : Laws.EncodedLength.Statement .dist2 :=
  fun c => length_coded c.lens ⟨.distance, 2, 0, 0⟩
theorem Laws.EncodedLength.dist3 : Laws.EncodedLength.Statement .dist3 :=
  fun c => length_coded c.lens ⟨.distance, 3, 0, 0⟩
theorem Laws.EncodedLength.dist4 (x : BitVec 1) : Laws.EncodedLength.Statement (.dist4 x) :=
  fun c => length_coded c.lens ⟨.distance, 4, 1, x.toNat⟩
theorem Laws.EncodedLength.dist5 (x : BitVec 1) : Laws.EncodedLength.Statement (.dist5 x) :=
  fun c => length_coded c.lens ⟨.distance, 5, 1, x.toNat⟩
theorem Laws.EncodedLength.dist6 (x : BitVec 2) : Laws.EncodedLength.Statement (.dist6 x) :=
  fun c => length_coded c.lens ⟨.distance, 6, 2, x.toNat⟩
theorem Laws.EncodedLength.dist7 (x : BitVec 2) : Laws.EncodedLength.Statement (.dist7 x) :=
  fun c => length_coded c.lens ⟨.distance, 7, 2, x.toNat⟩
theorem Laws.EncodedLength.dist8 (x : BitVec 3) : Laws.EncodedLength.Statement (.dist8 x) :=
  fun c => length_coded c.lens ⟨.distance, 8, 3, x.toNat⟩
theorem Laws.EncodedLength.dist9 (x : BitVec 3) : Laws.EncodedLength.Statement (.dist9 x) :=
  fun c => length_coded c.lens ⟨.distance, 9, 3, x.toNat⟩
theorem Laws.EncodedLength.dist10 (x : BitVec 4) : Laws.EncodedLength.Statement (.dist10 x) :=
  fun c => length_coded c.lens ⟨.distance, 10, 4, x.toNat⟩
theorem Laws.EncodedLength.dist11 (x : BitVec 4) : Laws.EncodedLength.Statement (.dist11 x) :=
  fun c => length_coded c.lens ⟨.distance, 11, 4, x.toNat⟩
theorem Laws.EncodedLength.dist12 (x : BitVec 5) : Laws.EncodedLength.Statement (.dist12 x) :=
  fun c => length_coded c.lens ⟨.distance, 12, 5, x.toNat⟩
theorem Laws.EncodedLength.dist13 (x : BitVec 5) : Laws.EncodedLength.Statement (.dist13 x) :=
  fun c => length_coded c.lens ⟨.distance, 13, 5, x.toNat⟩
theorem Laws.EncodedLength.dist14 (x : BitVec 6) : Laws.EncodedLength.Statement (.dist14 x) :=
  fun c => length_coded c.lens ⟨.distance, 14, 6, x.toNat⟩
theorem Laws.EncodedLength.dist15 (x : BitVec 6) : Laws.EncodedLength.Statement (.dist15 x) :=
  fun c => length_coded c.lens ⟨.distance, 15, 6, x.toNat⟩
theorem Laws.EncodedLength.dist16 (x : BitVec 7) : Laws.EncodedLength.Statement (.dist16 x) :=
  fun c => length_coded c.lens ⟨.distance, 16, 7, x.toNat⟩
theorem Laws.EncodedLength.dist17 (x : BitVec 7) : Laws.EncodedLength.Statement (.dist17 x) :=
  fun c => length_coded c.lens ⟨.distance, 17, 7, x.toNat⟩
theorem Laws.EncodedLength.dist18 (x : BitVec 8) : Laws.EncodedLength.Statement (.dist18 x) :=
  fun c => length_coded c.lens ⟨.distance, 18, 8, x.toNat⟩
theorem Laws.EncodedLength.dist19 (x : BitVec 8) : Laws.EncodedLength.Statement (.dist19 x) :=
  fun c => length_coded c.lens ⟨.distance, 19, 8, x.toNat⟩
theorem Laws.EncodedLength.dist20 (x : BitVec 9) : Laws.EncodedLength.Statement (.dist20 x) :=
  fun c => length_coded c.lens ⟨.distance, 20, 9, x.toNat⟩
theorem Laws.EncodedLength.dist21 (x : BitVec 9) : Laws.EncodedLength.Statement (.dist21 x) :=
  fun c => length_coded c.lens ⟨.distance, 21, 9, x.toNat⟩
theorem Laws.EncodedLength.dist22 (x : BitVec 10) : Laws.EncodedLength.Statement (.dist22 x) :=
  fun c => length_coded c.lens ⟨.distance, 22, 10, x.toNat⟩
theorem Laws.EncodedLength.dist23 (x : BitVec 10) : Laws.EncodedLength.Statement (.dist23 x) :=
  fun c => length_coded c.lens ⟨.distance, 23, 10, x.toNat⟩
theorem Laws.EncodedLength.dist24 (x : BitVec 11) : Laws.EncodedLength.Statement (.dist24 x) :=
  fun c => length_coded c.lens ⟨.distance, 24, 11, x.toNat⟩
theorem Laws.EncodedLength.dist25 (x : BitVec 11) : Laws.EncodedLength.Statement (.dist25 x) :=
  fun c => length_coded c.lens ⟨.distance, 25, 11, x.toNat⟩
theorem Laws.EncodedLength.dist26 (x : BitVec 12) : Laws.EncodedLength.Statement (.dist26 x) :=
  fun c => length_coded c.lens ⟨.distance, 26, 12, x.toNat⟩
theorem Laws.EncodedLength.dist27 (x : BitVec 12) : Laws.EncodedLength.Statement (.dist27 x) :=
  fun c => length_coded c.lens ⟨.distance, 27, 12, x.toNat⟩
theorem Laws.EncodedLength.dist28 (x : BitVec 13) : Laws.EncodedLength.Statement (.dist28 x) :=
  fun c => length_coded c.lens ⟨.distance, 28, 13, x.toNat⟩
theorem Laws.EncodedLength.dist29 (x : BitVec 13) : Laws.EncodedLength.Statement (.dist29 x) :=
  fun c => length_coded c.lens ⟨.distance, 29, 13, x.toNat⟩
theorem Laws.EncodedLength.rsv30 : Laws.EncodedLength.Statement .rsv30 :=
  fun c => length_coded c.lens ⟨.distance, 30, 0, 0⟩
theorem Laws.EncodedLength.rsv31 : Laws.EncodedLength.Statement .rsv31 :=
  fun c => length_coded c.lens ⟨.distance, 31, 0, 0⟩
theorem Laws.EncodedLength.ztrailer (t : Word) : Laws.EncodedLength.Statement (.ztrailer t) :=
  fun c => length_fields _ _ (c.pad + 24) 8 (length_fields _ _ (c.pad + 16) 8 (length_fields _ _ (c.pad + 8) 8
    (length_fields _ _ _ _ List.length_replicate (length_fieldBits _ _)) (length_fieldBits _ _)) (length_fieldBits _ _)) (length_fieldBits _ _)
theorem Laws.EncodedLength.ft0 : Laws.EncodedLength.Statement .ft0 :=
  fun _ => length_fieldBits _ _
theorem Laws.EncodedLength.ft1 : Laws.EncodedLength.Statement .ft1 :=
  fun _ => length_fieldBits _ _
theorem Laws.EncodedLength.ft2 : Laws.EncodedLength.Statement .ft2 :=
  fun _ => length_fieldBits _ _
theorem Laws.EncodedLength.ft3 : Laws.EncodedLength.Statement .ft3 :=
  fun _ => length_fieldBits _ _
theorem Laws.EncodedLength.ft4 : Laws.EncodedLength.Statement .ft4 :=
  fun _ => length_fieldBits _ _
theorem Laws.EncodedLength.ftInvalid (ft : Byte) : Laws.EncodedLength.Statement (.ftInvalid ft) :=
  fun _ => length_fieldBits _ _
theorem Laws.EncodedLength.defEnd : Laws.EncodedLength.Statement .defEnd :=
  fun _ => rfl
theorem Laws.EncodedLength.init : Laws.EncodedLength.Statement .init :=
  fun _ => length_fieldBits _ _
theorem Laws.EncodedLength.byte (b : Byte) : Laws.EncodedLength.Statement (.byte b) :=
  fun _ => length_fieldBits _ _
theorem Laws.EncodedLength.check (e : Word) : Laws.EncodedLength.Statement (.check e) :=
  fun _ => length_fieldBits _ _
theorem Laws.EncodedLength.infStart : Laws.EncodedLength.Statement .infStart :=
  fun _ => length_fieldBits _ _
theorem Laws.EncodedLength.defStart : Laws.EncodedLength.Statement .defStart :=
  fun _ => length_fieldBits _ _
theorem Laws.EncodedLength.infReset : Laws.EncodedLength.Statement .infReset :=
  fun _ => length_fieldBits _ _
theorem Laws.EncodedLength.crcReset : Laws.EncodedLength.Statement .crcReset :=
  fun _ => length_fieldBits _ _
theorem Laws.EncodedLength.defReset : Laws.EncodedLength.Statement .defReset :=
  fun _ => length_fieldBits _ _

end Sys2Proof
end

