-- ==== Sys2Proof/Tests/Slice0.lean ====
section
/-! SUPPORT. Tests, each of one instruction or one step: the well-formedness smoke, words written out from the spec's encodings,
results computed by hand from the spec's rules and worked examples, and a witness for the hypotheses of every statement. -/

namespace Sys2Proof.Tests

open Sys2Proof Sys2Proof.Machine

set_option Elab.async false

/-! ### Helpers -/

/-- Bytes at addresses from `a` on. -/
def cells : Nat → List Nat → Memory
  | _, [] => []
  | a, b :: bs => (a, BitVec.ofNat 8 b) :: cells (a + 1) bs

/-- INF running in a phase on some bytes of input. -/
def onBytes (phase : Phase) (bytes : List Nat) : State :=
  State.reset.onInf fun u =>
    { u with phase := phase, flags := .started, input := cells 0 bytes, inLen := bytes.length }

/-- INF running in `SYM` under the fixed codes. -/
def inFixed (bytes : List Nat) : State :=
  (onBytes .sym bytes).onInf fun u => { u with llLen := fixedLlLen, dLen := fixedDLen }

/-- The same after the output of "a" (`s1` = `s2` = 98). -/
def afterA (bytes : List Nat) : State :=
  (inFixed bytes).onInf fun u =>
    { u with outCount := 1, out := [(0, 0x61)], win := [(0, 0x61)], s1 := 98, s2 := 98 }

/-- A code-length code in which symbols 0 to 12 have 4-bit codes 0 to 12 and symbols 13 to 18 5-bit codes 26 to 31. -/
def wideCl : List CodeLen := List.replicate 13 4 ++ List.replicate 6 5

/-- INF reading code lengths, `lidx` of 258 read. -/
def inLens (lidx : Nat) (bytes : List Nat) : State :=
  (onBytes .dynlens bytes).onInf fun u =>
    { u with clLen := wideCl, nlen := 257, ndist := 1, ncode := 19, lidx := lidx }

/-- DEF running on one sub-image of two rows of three bytes, `BPP` = 1. -/
def inRows (bytes : List Nat) : State :=
  State.reset.onDfl fun u =>
    { u with dphase := .row, flags := .started, bpp := 1, npass := 1, rowBytes := u.rowBytes.set 0 3,
             rows := u.rows.set 0 2, din := cells 0 bytes, inLen := bytes.length }

/-- CRC after `INIT`. -/
def accumulating : State :=
  State.reset.onCrc fun u => { u with cstate := .accum, active := true }

/-- The same state with the agenda set. -/
def State.turn (e : Event) (s : State) : State := { s with agenda := [e] }

/-- What a field of the next state is. -/
def result {α : Type} (f : State → α) (o : Host.Outcome State Fault Refusal) : Option α :=
  match o with
  | .next s => some (f s)
  | .fault _ => none
  | .refused _ => none

/-- Why the model refuses. -/
def refusal (o : Host.Outcome State Fault Refusal) : Option Refusal :=
  match o with
  | .next _ => none
  | .fault _ => none
  | .refused r => some r

/-- A code of `n` bits, most significant bit first, then a field of `k` bits, least significant bit first. -/
def coded (n code k x : Nat) : List Bool := (fieldBits n code).reverse ++ fieldBits k x

/-- What the decoder reads. -/
def read (c : Ctx) (bits : List Bool) : Option (Instr × List Bool) :=
  match decode c bits with
  | .ok r => some r
  | .error _ => none

/-- Why the decoder rejects. -/
def rejected (c : Ctx) (bits : List Bool) : Option Reject :=
  match decode c bits with
  | .ok _ => none
  | .error r => some r

/-- The bytes of a small memory. -/
def bytesAt (m : Memory) (a n : Nat) : List (Option Byte) := (List.range n).map fun i => Memory.find m (a + i)

/-! ### Well-formedness: each check refuses an ill-formed term -/

theorem test_wf_clens_three_lengths : (Instr.clens [1, 1, 1]).wellFormed = false := by decide
theorem test_wf_clens_twenty_lengths : (Instr.clens (List.replicate 20 1)).wellFormed = false := by decide
theorem test_wf_clens_four_lengths : (Instr.clens [1, 1, 1, 1]).wellFormed = true := by decide
theorem test_wf_ftInvalid_four : (Instr.ftInvalid 4).wellFormed = false := by decide
theorem test_wf_ftInvalid_five : (Instr.ftInvalid 5).wellFormed = true := by decide

/-! ### Decoding: words written out from the encodings of spec/30_encoding.md -/

/-- Bytes 78 9C: R91 and the example of R130. -/
theorem test_decode_zhdr :
    read .zhdr [false, false, false, true, true, true, true, false, false, false, true, true, true, false, false, true]
      = some (.zhdr 0x78 0x9C, []) := by decide
/-- R92: `BFINAL` first, then `BTYPE` least significant bit first. -/
theorem test_decode_blkStored : read .blkhdr [true, false, false] = some (.blkStored true, []) := by decide
theorem test_decode_blkFixed : read .blkhdr [true, true, false] = some (.blkFixed true, []) := by decide
theorem test_decode_blkDyn : read .blkhdr [false, false, true] = some (.blkDyn false, []) := by decide
theorem test_decode_blkRsv : read .blkhdr [false, true, true] = some (.blkRsv false, []) := by decide
/-- R93: five pad bits of any value, then 05 00 FA FF (the example of R155). -/
theorem test_decode_stored :
    read (.stored 5) ([true, false, true, true, false] ++ [true, false, true, false, false, false, false, false] ++
      List.replicate 8 false ++ [false, true, false, true, true, true, true, true] ++ List.replicate 8 true)
      = some (.stored 5 0xFFFA, []) := by decide
/-- R94 and the example of R156: `HLIT` = 1, `HDIST` = 1, `HCLEN` = 14. -/
theorem test_decode_dynhdr :
    read .dynhdr [true, false, false, false, false, true, false, false, false, false, false, true, true, true]
      = some (.dynhdr 1 1 14, []) := by decide
/-- R95: four 3-bit fields 1, 2, 4, 7. -/
theorem test_decode_clens :
    read (.dynclen 4) [true, false, false, false, true, false, false, false, true, true, true, true]
      = some (.clens [1, 2, 4, 7], []) := by decide
/-- R162: no bits. -/
theorem test_decode_tables : read .tables [] = some (.tables, []) := by decide
/-- R101: three pad bits, then bytes 05 8C 01 F5, most significant first (the example of R131). -/
theorem test_decode_ztrailer :
    read (.trailer 3) ([true, true, true] ++ [true, false, true, false, false, false, false, false] ++
      [false, false, true, true, false, false, false, true] ++ [true, false, false, false, false, false, false, false] ++
      [true, false, true, false, true, true, true, true]) = some (.ztrailer 0x058C01F5, []) := by decide
/-- The code of the example of R157: 18 = `0`, 1 = `10`, 2 = `11`. -/
theorem test_decode_cl_example :
    read (.dynlens [0, 2, 2, 0, 0, 0, 0, 0, 0, 0, 0, 0, 0, 0, 0, 0, 0, 0, 1] false) [true, false] = some (.cl1, []) := by
  decide

/-- R96 under the code of `wideCl`: the code, then the extra bits. -/
theorem test_decode_cl0_to_cl18 :
    ([
      (coded 4 0b0000 0 0, Instr.cl0),
      (coded 4 0b0001 0 0, Instr.cl1),
      (coded 4 0b0010 0 0, Instr.cl2),
      (coded 4 0b0011 0 0, Instr.cl3),
      (coded 4 0b0100 0 0, Instr.cl4),
      (coded 4 0b0101 0 0, Instr.cl5),
      (coded 4 0b0110 0 0, Instr.cl6),
      (coded 4 0b0111 0 0, Instr.cl7),
      (coded 4 0b1000 0 0, Instr.cl8),
      (coded 4 0b1001 0 0, Instr.cl9),
      (coded 4 0b1010 0 0, Instr.cl10),
      (coded 4 0b1011 0 0, Instr.cl11),
      (coded 4 0b1100 0 0, Instr.cl12),
      (coded 5 0b11010 0 0, Instr.cl13),
      (coded 5 0b11011 0 0, Instr.cl14),
      (coded 5 0b11100 0 0, Instr.cl15),
      (coded 5 0b11101 2 2, Instr.cl16 2),
      (coded 5 0b11110 3 5, Instr.cl17 5),
      (coded 5 0b11111 7 86, Instr.cl18 86)
    ] : List (List Bool × Instr)).all (fun r => read (.dynlens wideCl false) r.1 == some (r.2, [])) = true := by decide +kernel
/-- R98 under the fixed code of R106, the extra bits all 1. -/
theorem test_decode_len257_to_len271 :
    ([
      (coded 7 0b0000001 0 0, Instr.len257),
      (coded 7 0b0000010 0 0, Instr.len258),
      (coded 7 0b0000011 0 0, Instr.len259),
      (coded 7 0b0000100 0 0, Instr.len260),
      (coded 7 0b0000101 0 0, Instr.len261),
      (coded 7 0b0000110 0 0, Instr.len262),
      (coded 7 0b0000111 0 0, Instr.len263),
      (coded 7 0b0001000 0 0, Instr.len264),
      (coded 7 0b0001001 1 1, Instr.len265 1),
      (coded 7 0b0001010 1 1, Instr.len266 1),
      (coded 7 0b0001011 1 1, Instr.len267 1),
      (coded 7 0b0001100 1 1, Instr.len268 1),
      (coded 7 0b0001101 2 3, Instr.len269 3),
      (coded 7 0b0001110 2 3, Instr.len270 3),
      (coded 7 0b0001111 2 3, Instr.len271 3)
    ] : List (List Bool × Instr)).all (fun r => read (.sym fixedLlLen) r.1 == some (r.2, [])) = true := by decide +kernel
/-- R97, R98 under the fixed code of R106, the extra bits all 1. -/
theorem test_decode_len272_to_rsv287 :
    ([
      (coded 7 0b0010000 2 3, Instr.len272 3),
      (coded 7 0b0010001 3 7, Instr.len273 7),
      (coded 7 0b0010010 3 7, Instr.len274 7),
      (coded 7 0b0010011 3 7, Instr.len275 7),
      (coded 7 0b0010100 3 7, Instr.len276 7),
      (coded 7 0b0010101 4 15, Instr.len277 15),
      (coded 7 0b0010110 4 15, Instr.len278 15),
      (coded 7 0b0010111 4 15, Instr.len279 15),
      (coded 8 0b11000000 4 15, Instr.len280 15),
      (coded 8 0b11000001 5 31, Instr.len281 31),
      (coded 8 0b11000010 5 31, Instr.len282 31),
      (coded 8 0b11000011 5 31, Instr.len283 31),
      (coded 8 0b11000100 5 31, Instr.len284 31),
      (coded 8 0b11000101 0 0, Instr.len285),
      (coded 8 0b11000110 0 0, Instr.rsv286),
      (coded 8 0b11000111 0 0, Instr.rsv287)
    ] : List (List Bool × Instr)).all (fun r => read (.sym fixedLlLen) r.1 == some (r.2, [])) = true := by decide +kernel
/-- R106: the first and last code of each row, the example of R192, and `EOB`. -/
theorem test_decode_literals_and_eob :
    ([
      (coded 8 0b00110000 0 0, Instr.lit 0),
      (coded 8 0b10111111 0 0, Instr.lit 143),
      (coded 9 0b110010000 0 0, Instr.lit 144),
      (coded 9 0b111111111 0 0, Instr.lit 255),
      (coded 8 0b10010001 0 0, Instr.lit 0x61),
      (coded 7 0b0000000 0 0, Instr.eob)
    ] : List (List Bool × Instr)).all (fun r => read (.sym fixedLlLen) r.1 == some (r.2, [])) = true := by decide +kernel
/-- R99 under the fixed code, the first extra bit 1. -/
theorem test_decode_dist0_to_dist15 :
    ([
      (coded 5 0b00000 0 0, Instr.dist0),
      (coded 5 0b00001 0 0, Instr.dist1),
      (coded 5 0b00010 0 0, Instr.dist2),
      (coded 5 0b00011 0 0, Instr.dist3),
      (coded 5 0b00100 1 1, Instr.dist4 1),
      (coded 5 0b00101 1 1, Instr.dist5 1),
      (coded 5 0b00110 2 1, Instr.dist6 1),
      (coded 5 0b00111 2 1, Instr.dist7 1),
      (coded 5 0b01000 3 1, Instr.dist8 1),
      (coded 5 0b01001 3 1, Instr.dist9 1),
      (coded 5 0b01010 4 1, Instr.dist10 1),
      (coded 5 0b01011 4 1, Instr.dist11 1),
      (coded 5 0b01100 5 1, Instr.dist12 1),
      (coded 5 0b01101 5 1, Instr.dist13 1),
      (coded 5 0b01110 6 1, Instr.dist14 1),
      (coded 5 0b01111 6 1, Instr.dist15 1)
    ] : List (List Bool × Instr)).all (fun r => read (.dist fixedDLen) r.1 == some (r.2, [])) = true := by decide +kernel
/-- R99 under the fixed code, the first extra bit 1. -/
theorem test_decode_dist16_to_rsv31 :
    ([
      (coded 5 0b10000 7 1, Instr.dist16 1),
      (coded 5 0b10001 7 1, Instr.dist17 1),
      (coded 5 0b10010 8 1, Instr.dist18 1),
      (coded 5 0b10011 8 1, Instr.dist19 1),
      (coded 5 0b10100 9 1, Instr.dist20 1),
      (coded 5 0b10101 9 1, Instr.dist21 1),
      (coded 5 0b10110 10 1, Instr.dist22 1),
      (coded 5 0b10111 10 1, Instr.dist23 1),
      (coded 5 0b11000 11 1, Instr.dist24 1),
      (coded 5 0b11001 11 1, Instr.dist25 1),
      (coded 5 0b11010 12 1, Instr.dist26 1),
      (coded 5 0b11011 12 1, Instr.dist27 1),
      (coded 5 0b11100 13 1, Instr.dist28 1),
      (coded 5 0b11101 13 1, Instr.dist29 1),
      (coded 5 0b11110 0 0, Instr.rsv30),
      (coded 5 0b11111 0 0, Instr.rsv31)
    ] : List (List Bool × Instr)).all (fun r => read (.dist fixedDLen) r.1 == some (r.2, [])) = true := by decide +kernel
/-- R107: the filter-type byte, least significant bit first. -/
theorem test_decode_rows :
    ([(0, Instr.ft0), (1, .ft1), (2, .ft2), (3, .ft3), (4, .ft4), (5, .ftInvalid 5), (255, .ftInvalid 255)]).all
      (fun r => read .row (fieldBits 8 r.1) == some (r.2, [])) = true := by decide
theorem test_decode_defEnd : read .defEnd [] = some (.defEnd, []) := by decide
/-- R44, R108: register 0 is `CTRL`; bit 0 starts or begins, bit 1 resets and wins. -/
theorem test_decode_commands :
    ([(UnitId.inf, 0, 1, Instr.infStart), (.inf, 0, 2, .infReset), (.inf, 0, 3, .infReset), (.dfl, 0, 1, .defStart),
      (.dfl, 0, 2, .defReset), (.crc, 0, 1, .init), (.crc, 0, 2, .crcReset), (.crc, 0, 3, .crcReset),
      (.crc, 4, 0x161, .byte 0x61), (.crc, 5, 0xAE426082, .check 0xAE426082)]).all
      (fun r => read (.reg r.1 r.2.1) (fieldBits 32 r.2.2.1) == some (r.2.2.2, [])) = true := by decide +kernel
/-- R44: a 0 in both bits is no command. -/
theorem test_decode_no_command : rejected (.reg .inf 0) (fieldBits 32 4) = some .notCommand := by decide

/-! ### Rejections -/

/-- R66: two bits are no block header. -/
theorem test_reject_short : rejected .blkhdr [true, false] = some .endOfInput := by decide
/-- R104, R163: under one distance code `0`, fifteen bits 1 match nothing. -/
theorem test_reject_no_code : rejected (.dist (1 :: List.replicate 31 0)) (List.replicate 15 true) = some .noCode := by
  decide +kernel
/-- R283: `CL16` first, its extra bits missing: that there is no previous length comes first. -/
theorem test_reject_cl16_first : rejected (.dynlens wideCl true) (coded 5 29 0 0) = some .noPrevious := by decide +kernel

/-! ### Tables and codes of the spec -/

/-- The worked example of R103. -/
theorem test_codes_example :
    (List.range 8).map (codeBits [3, 3, 3, 3, 3, 2, 4, 4]) =
      [[false, true, false], [false, true, true], [true, false, false], [true, false, true], [true, true, false],
       [false, false], [true, true, true, false], [true, true, true, true]] := by decide
/-- R98: extra bits and base of symbols 257 to 285. -/
theorem test_length_table :
    (List.range 29).map (fun k => (lenExtra (257 + k), lenBase (257 + k))) =
      [(0, 3), (0, 4), (0, 5), (0, 6), (0, 7), (0, 8), (0, 9), (0, 10), (1, 11), (1, 13), (1, 15), (1, 17), (2, 19),
       (2, 23), (2, 27), (2, 31), (3, 35), (3, 43), (3, 51), (3, 59), (4, 67), (4, 83), (4, 99), (4, 115), (5, 131),
       (5, 163), (5, 195), (5, 227), (0, 258)] := by decide
/-- R99: extra bits and base of symbols 0 to 29. -/
theorem test_distance_table :
    (List.range 30).map (fun t => (distExtra t, distBase t)) =
      [(0, 1), (0, 2), (0, 3), (0, 4), (1, 5), (1, 7), (2, 9), (2, 13), (3, 17), (3, 25), (4, 33), (4, 49), (5, 65),
       (5, 97), (6, 129), (6, 193), (7, 257), (7, 385), (8, 513), (8, 769), (9, 1025), (9, 1537), (10, 2049),
       (10, 3073), (11, 4097), (11, 6145), (12, 8193), (12, 12289), (13, 16385), (13, 24577)] := by decide
/-- R105: both fixed sets are complete. -/
theorem test_fixed_complete : classify fixedLlLen = .complete ∧ classify fixedDLen = .complete := by decide +kernel
/-- R102: all zero leaves the whole space; a lone 1-bit code half of it; three 1-bit codes are too many. -/
theorem test_classify :
    classify (List.replicate 32 0) = .incomplete ∧ classify [1, 0] = .incomplete ∧ classify [1, 1, 1] = .overSubscribed := by
  decide
/-- The worked values of R249. -/
theorem test_paeth : (paeth 3 0 2, paeth 0 3 2, paeth 0 0 255, paeth 255 255 0) = (0, 0, 0, 255) := by decide

/-! ### INF: one instruction each -/

/-- R130: `78 9C` is accepted. -/
theorem test_zhdr_accepted :
    result (fun t => (t.inf.phase, t.inf.bitpos)) (exec (.zhdr 0x78 0x9C) (onBytes .zhdr [0x78, 0x9C])) =
      some (.blkhdr, 16) := by decide
/-- R130: `78 00` is not a multiple of 31; the fault leaves `bitpos` at 0. -/
theorem test_zhdr_check :
    result (fun t => (t.inf.phase, t.inf.err, t.inf.bitpos)) (exec (.zhdr 0x78 0x00) (onBytes .zhdr [0x78, 0x00])) =
      some (.fault, 15, 0) := by decide
theorem test_blkStored :
    result (fun t => (t.inf.phase, t.inf.bfinal, t.inf.btype, t.inf.bitpos)) (exec (.blkStored true) (onBytes .blkhdr [1])) =
      some (.stored, true, 0, 3) := by decide
theorem test_blkFixed :
    result (fun t => (t.inf.phase, t.inf.btype, t.inf.llLen.getD 256 0, t.inf.dLen.getD 31 0))
      (exec (.blkFixed true) (onBytes .blkhdr [3])) = some (.sym, 1, 7, 5) := by decide
theorem test_blkDyn :
    result (fun t => (t.inf.phase, t.inf.btype)) (exec (.blkDyn false) (onBytes .blkhdr [4])) = some (.dynhdr, 2) := by
  decide
/-- R154, R280: `btype` keeps its old value. -/
theorem test_blkRsv :
    result (fun t => (t.inf.phase, t.inf.err, t.inf.btype)) (exec (.blkRsv false) (onBytes .blkhdr [6])) =
      some (.fault, 16, 0) := by decide
/-- The example of R155: `align` from bit 3, "Hello", and `bfinal` = 1 ends in `TRAILER`; `s1` is that of R131. -/
theorem test_stored :
    result (fun t => (t.inf.phase, t.inf.bitpos, bytesAt t.inf.out 0 5, t.inf.s1, t.inf.s2))
      (exec (.stored 5 0xFFFA) ((onBytes .stored [1, 5, 0, 0xFA, 0xFF, 0x48, 0x65, 0x6C, 0x6C, 0x6F]).onInf fun u =>
        { u with bfinal := true, bitpos := 3 })) =
      some (.trailer, 80, [some 0x48, some 0x65, some 0x6C, some 0x6C, some 0x6F], 0x01F5, 0x058C) := by decide +kernel
/-- R283: a bad pair before a short body. -/
theorem test_stored_bad_pair :
    result (fun t => t.inf.err) (exec (.stored 9 9) (onBytes .stored [9, 0, 9, 0])) = some 16 := by decide
/-- The example of R156. -/
theorem test_dynhdr :
    result (fun t => (t.inf.phase, t.inf.nlen, t.inf.ndist, t.inf.ncode))
      (exec (.dynhdr 1 1 14) (onBytes .dynhdr [0x21, 0x38])) = some (.dynclen, 258, 2, 18) := by decide
/-- R156: 287 literal/length lengths are too many. -/
theorem test_dynhdr_too_many :
    result (fun t => t.inf.err) (exec (.dynhdr 30 0 0) (onBytes .dynhdr [0x1E, 0])) = some 16 := by decide
/-- The example of R157: `cl_len[18]` = 1, `cl_len[2]` = `cl_len[1]` = 2. -/
theorem test_clens :
    result (fun t => (t.inf.phase, t.inf.clLen))
      (exec (.clens [0, 0, 1, 0, 0, 0, 0, 0, 0, 0, 0, 0, 0, 0, 0, 2, 0, 2]) (onBytes .dynclen (List.replicate 7 0))) =
      some (.dynlens, [0, 2, 2, 0, 0, 0, 0, 0, 0, 0, 0, 0, 0, 0, 0, 0, 0, 0, 1]) := by decide
/-- R157: all-zero lengths are incomplete. -/
theorem test_clens_incomplete :
    result (fun t => t.inf.err) (exec (.clens [0, 0, 0, 0]) (onBytes .dynclen [0, 0])) = some 16 := by decide

theorem test_cl0 :
    result (fun t => (t.inf.lidx, t.inf.llLen.getD 7 0)) (exec .cl0 (inLens 7 [0, 0])) = some (8, 0) := by decide
theorem test_cl1 :
    result (fun t => (t.inf.lidx, t.inf.llLen.getD 7 0)) (exec .cl1 (inLens 7 [0, 0])) = some (8, 1) := by decide
theorem test_cl2 :
    result (fun t => (t.inf.lidx, t.inf.llLen.getD 7 0)) (exec .cl2 (inLens 7 [0, 0])) = some (8, 2) := by decide
theorem test_cl3 :
    result (fun t => (t.inf.lidx, t.inf.llLen.getD 7 0)) (exec .cl3 (inLens 7 [0, 0])) = some (8, 3) := by decide
theorem test_cl4 :
    result (fun t => (t.inf.lidx, t.inf.llLen.getD 7 0)) (exec .cl4 (inLens 7 [0, 0])) = some (8, 4) := by decide
theorem test_cl5 :
    result (fun t => (t.inf.lidx, t.inf.llLen.getD 7 0)) (exec .cl5 (inLens 7 [0, 0])) = some (8, 5) := by decide
theorem test_cl6 :
    result (fun t => (t.inf.lidx, t.inf.llLen.getD 7 0)) (exec .cl6 (inLens 7 [0, 0])) = some (8, 6) := by decide
theorem test_cl7 :
    result (fun t => (t.inf.lidx, t.inf.llLen.getD 7 0)) (exec .cl7 (inLens 7 [0, 0])) = some (8, 7) := by decide
theorem test_cl8 :
    result (fun t => (t.inf.lidx, t.inf.llLen.getD 7 0)) (exec .cl8 (inLens 7 [0, 0])) = some (8, 8) := by decide
theorem test_cl9 :
    result (fun t => (t.inf.lidx, t.inf.llLen.getD 7 0)) (exec .cl9 (inLens 7 [0, 0])) = some (8, 9) := by decide
theorem test_cl10 :
    result (fun t => (t.inf.lidx, t.inf.llLen.getD 7 0)) (exec .cl10 (inLens 7 [0, 0])) = some (8, 10) := by decide
theorem test_cl11 :
    result (fun t => (t.inf.lidx, t.inf.llLen.getD 7 0)) (exec .cl11 (inLens 7 [0, 0])) = some (8, 11) := by decide
theorem test_cl12 :
    result (fun t => (t.inf.lidx, t.inf.llLen.getD 7 0)) (exec .cl12 (inLens 7 [0, 0])) = some (8, 12) := by decide
theorem test_cl13 :
    result (fun t => (t.inf.lidx, t.inf.llLen.getD 7 0)) (exec .cl13 (inLens 7 [0, 0])) = some (8, 13) := by decide
theorem test_cl14 :
    result (fun t => (t.inf.lidx, t.inf.llLen.getD 7 0)) (exec .cl14 (inLens 7 [0, 0])) = some (8, 14) := by decide
theorem test_cl15 :
    result (fun t => (t.inf.lidx, t.inf.llLen.getD 7 0)) (exec .cl15 (inLens 7 [0, 0])) = some (8, 15) := by decide
/-- R159: after a 5, `CL16` with extra value 2 appends five of them. -/
theorem test_cl16 :
    result (fun t => (t.inf.lidx, t.inf.llLen.take 9))
      (exec (.cl16 2) ((inLens 2 [0, 0]).onInf fun u => { u with llLen := u.llLen.set 1 5 })) =
      some (7, [0, 5, 5, 5, 5, 5, 5, 0, 0]) := by decide
/-- R159: nothing to repeat. -/
theorem test_cl16_first : result (fun t => t.inf.err) (exec (.cl16 2) (inLens 0 [0, 0])) = some 16 := by decide
theorem test_cl17 : result (fun t => t.inf.lidx) (exec (.cl17 0) (inLens 4 [0, 0])) = some 7 := by decide
/-- R160: a run of zeros past the end. -/
theorem test_cl17_overrun : result (fun t => t.inf.err) (exec (.cl17 0) (inLens 256 [0, 0])) = some 16 := by decide
/-- The example of R161: extra value 86 moves `lidx` from 0 to 97. -/
theorem test_cl18 : result (fun t => t.inf.lidx) (exec (.cl18 86) (inLens 0 [0, 0])) = some 97 := by decide
/-- R162: the last length completes a legal pair of tables (strict needs a complete distance set). -/
theorem test_tables_accepted :
    result (fun t => t.inf.phase) (exec .tables ((onBytes .dynlens []).onInf fun u =>
      { u with llLen := (u.llLen.set 256 1).set 97 1, dLen := (u.dLen.set 0 1).set 1 1 })) = some .sym := by decide +kernel
/-- R163: one distance code of length 1 faults under `strict`. -/
theorem test_tables_strict :
    result (fun t => t.inf.err) (exec .tables ((onBytes .dynlens []).onInf fun u =>
      { u with llLen := (u.llLen.set 256 1).set 97 1, dLen := u.dLen.set 0 1 })) = some 16 := by decide +kernel
/-- R190, R192: the byte is in `OUT`, in `WIN` and in the checksum. -/
theorem test_lit :
    result (fun t => (Memory.find t.inf.out 0, Memory.find t.inf.win 0, t.inf.s1, t.inf.s2, t.inf.bitpos))
      (exec (.lit 0x61) (inFixed [0x89])) = some (some 0x61, some 0x61, 98, 98, 8) := by decide
/-- R193: 7 bits of the fixed code, no output. -/
theorem test_eob :
    result (fun t => (t.inf.phase, t.inf.bitpos, t.inf.outCount)) (exec .eob (inFixed [0])) = some (.blkhdr, 7, 0) := by
  decide

theorem test_len257 : result (fun t => (t.inf.matchLen, t.inf.bitpos)) (exec .len257 (inFixed [0, 0])) = some (some 3, 7) := by
  decide
theorem test_len258 : result (fun t => (t.inf.matchLen, t.inf.bitpos)) (exec .len258 (inFixed [0, 0])) = some (some 4, 7) := by
  decide
theorem test_len259 : result (fun t => (t.inf.matchLen, t.inf.bitpos)) (exec .len259 (inFixed [0, 0])) = some (some 5, 7) := by
  decide
theorem test_len260 : result (fun t => (t.inf.matchLen, t.inf.bitpos)) (exec .len260 (inFixed [0, 0])) = some (some 6, 7) := by
  decide
theorem test_len261 : result (fun t => (t.inf.matchLen, t.inf.bitpos)) (exec .len261 (inFixed [0, 0])) = some (some 7, 7) := by
  decide
theorem test_len262 : result (fun t => (t.inf.matchLen, t.inf.bitpos)) (exec .len262 (inFixed [0, 0])) = some (some 8, 7) := by
  decide
theorem test_len263 : result (fun t => (t.inf.matchLen, t.inf.bitpos)) (exec .len263 (inFixed [0, 0])) = some (some 9, 7) := by
  decide
theorem test_len264 : result (fun t => (t.inf.matchLen, t.inf.bitpos)) (exec .len264 (inFixed [0, 0])) = some (some 10, 7) := by
  decide
theorem test_len265 : result (fun t => (t.inf.matchLen, t.inf.bitpos)) (exec (.len265 1) (inFixed [0, 0])) = some (some 12, 8) := by
  decide
theorem test_len266 : result (fun t => (t.inf.matchLen, t.inf.bitpos)) (exec (.len266 1) (inFixed [0, 0])) = some (some 14, 8) := by
  decide
theorem test_len267 : result (fun t => (t.inf.matchLen, t.inf.bitpos)) (exec (.len267 1) (inFixed [0, 0])) = some (some 16, 8) := by
  decide
theorem test_len268 : result (fun t => (t.inf.matchLen, t.inf.bitpos)) (exec (.len268 1) (inFixed [0, 0])) = some (some 18, 8) := by
  decide
theorem test_len269 : result (fun t => (t.inf.matchLen, t.inf.bitpos)) (exec (.len269 3) (inFixed [0, 0])) = some (some 22, 9) := by
  decide
theorem test_len270 : result (fun t => (t.inf.matchLen, t.inf.bitpos)) (exec (.len270 3) (inFixed [0, 0])) = some (some 26, 9) := by
  decide
theorem test_len271 : result (fun t => (t.inf.matchLen, t.inf.bitpos)) (exec (.len271 3) (inFixed [0, 0])) = some (some 30, 9) := by
  decide
theorem test_len272 : result (fun t => (t.inf.matchLen, t.inf.bitpos)) (exec (.len272 3) (inFixed [0, 0])) = some (some 34, 9) := by
  decide
theorem test_len273 : result (fun t => (t.inf.matchLen, t.inf.bitpos)) (exec (.len273 7) (inFixed [0, 0])) = some (some 42, 10) := by
  decide
theorem test_len274 : result (fun t => (t.inf.matchLen, t.inf.bitpos)) (exec (.len274 7) (inFixed [0, 0])) = some (some 50, 10) := by
  decide
theorem test_len275 : result (fun t => (t.inf.matchLen, t.inf.bitpos)) (exec (.len275 7) (inFixed [0, 0])) = some (some 58, 10) := by
  decide
theorem test_len276 : result (fun t => (t.inf.matchLen, t.inf.bitpos)) (exec (.len276 7) (inFixed [0, 0])) = some (some 66, 10) := by
  decide
theorem test_len277 : result (fun t => (t.inf.matchLen, t.inf.bitpos)) (exec (.len277 15) (inFixed [0, 0])) = some (some 82, 11) := by
  decide
theorem test_len278 : result (fun t => (t.inf.matchLen, t.inf.bitpos)) (exec (.len278 15) (inFixed [0, 0])) = some (some 98, 11) := by
  decide
theorem test_len279 : result (fun t => (t.inf.matchLen, t.inf.bitpos)) (exec (.len279 15) (inFixed [0, 0])) = some (some 114, 11) := by
  decide
theorem test_len280 : result (fun t => (t.inf.matchLen, t.inf.bitpos)) (exec (.len280 15) (inFixed [0, 0])) = some (some 130, 12) := by
  decide
theorem test_len281 : result (fun t => (t.inf.matchLen, t.inf.bitpos)) (exec (.len281 31) (inFixed [0, 0])) = some (some 162, 13) := by
  decide
theorem test_len282 : result (fun t => (t.inf.matchLen, t.inf.bitpos)) (exec (.len282 31) (inFixed [0, 0])) = some (some 194, 13) := by
  decide
theorem test_len283 : result (fun t => (t.inf.matchLen, t.inf.bitpos)) (exec (.len283 31) (inFixed [0, 0])) = some (some 226, 13) := by
  decide
theorem test_len284 : result (fun t => (t.inf.matchLen, t.inf.bitpos)) (exec (.len284 31) (inFixed [0, 0])) = some (some 258, 13) := by
  decide
theorem test_len285 : result (fun t => (t.inf.matchLen, t.inf.bitpos)) (exec .len285 (inFixed [0, 0])) = some (some 258, 8) := by
  decide
theorem test_rsv286 : result (fun t => (t.inf.err, t.inf.bitpos)) (exec .rsv286 (inFixed [0x63])) = some (16, 0) := by decide
theorem test_rsv287 : result (fun t => (t.inf.err, t.inf.bitpos)) (exec .rsv287 (inFixed [0xE3])) = some (16, 0) := by decide
/-- The example of R194: after "a", a match of length 9 at distance 1 emits nine more. -/
theorem test_match :
    result (fun t => (t.inf.outCount, bytesAt t.inf.out 0 10, t.inf.bitpos, t.inf.matchLen))
      (infTurn (afterA [0x70, 0])) = some (10, List.replicate 10 (some 0x61), 12, none) := by decide +kernel
/-- R198: a distance of 2 after one byte of output faults, the whole match undone. -/
theorem test_match_too_far :
    result (fun t => (t.inf.err, t.inf.bitpos, t.inf.outCount, t.inf.matchLen)) (infTurn (afterA [0x70, 8])) =
      some (16, 0, 1, none) := by decide +kernel

/-- INF between the halves of a match of length 1 with `out_count` = `n`, the byte at distance `n` being `z`. -/
def reaching (n : Nat) : State :=
  (inFixed [0, 0, 0]).onInf fun u => { u with outCount := n, matchLen := some 1, win := [(0, 0x7A)] }

theorem test_dist0 : result (fun t => (Memory.find t.inf.out 1, t.inf.bitpos)) (exec .dist0 (reaching 1)) = some (some 0x7A, 5) := by
  decide +kernel
theorem test_dist1 : result (fun t => (Memory.find t.inf.out 2, t.inf.bitpos)) (exec .dist1 (reaching 2)) = some (some 0x7A, 5) := by
  decide +kernel
theorem test_dist2 : result (fun t => (Memory.find t.inf.out 3, t.inf.bitpos)) (exec .dist2 (reaching 3)) = some (some 0x7A, 5) := by
  decide +kernel
theorem test_dist3 : result (fun t => (Memory.find t.inf.out 4, t.inf.bitpos)) (exec .dist3 (reaching 4)) = some (some 0x7A, 5) := by
  decide +kernel
theorem test_dist4 : result (fun t => (Memory.find t.inf.out 5, t.inf.bitpos)) (exec (.dist4 0) (reaching 5)) = some (some 0x7A, 6) := by
  decide +kernel
theorem test_dist5 : result (fun t => (Memory.find t.inf.out 7, t.inf.bitpos)) (exec (.dist5 0) (reaching 7)) = some (some 0x7A, 6) := by
  decide +kernel
theorem test_dist6 : result (fun t => (Memory.find t.inf.out 9, t.inf.bitpos)) (exec (.dist6 0) (reaching 9)) = some (some 0x7A, 7) := by
  decide +kernel
theorem test_dist7 : result (fun t => (Memory.find t.inf.out 13, t.inf.bitpos)) (exec (.dist7 0) (reaching 13)) = some (some 0x7A, 7) := by
  decide +kernel
theorem test_dist8 : result (fun t => (Memory.find t.inf.out 17, t.inf.bitpos)) (exec (.dist8 0) (reaching 17)) = some (some 0x7A, 8) := by
  decide +kernel
theorem test_dist9 : result (fun t => (Memory.find t.inf.out 25, t.inf.bitpos)) (exec (.dist9 0) (reaching 25)) = some (some 0x7A, 8) := by
  decide +kernel
theorem test_dist10 : result (fun t => (Memory.find t.inf.out 33, t.inf.bitpos)) (exec (.dist10 0) (reaching 33)) = some (some 0x7A, 9) := by
  decide +kernel
theorem test_dist11 : result (fun t => (Memory.find t.inf.out 49, t.inf.bitpos)) (exec (.dist11 0) (reaching 49)) = some (some 0x7A, 9) := by
  decide +kernel
theorem test_dist12 : result (fun t => (Memory.find t.inf.out 65, t.inf.bitpos)) (exec (.dist12 0) (reaching 65)) = some (some 0x7A, 10) := by
  decide +kernel
theorem test_dist13 : result (fun t => (Memory.find t.inf.out 97, t.inf.bitpos)) (exec (.dist13 0) (reaching 97)) = some (some 0x7A, 10) := by
  decide +kernel
theorem test_dist14 : result (fun t => (Memory.find t.inf.out 129, t.inf.bitpos)) (exec (.dist14 0) (reaching 129)) = some (some 0x7A, 11) := by
  decide +kernel
theorem test_dist15 : result (fun t => (Memory.find t.inf.out 193, t.inf.bitpos)) (exec (.dist15 0) (reaching 193)) = some (some 0x7A, 11) := by
  decide +kernel
theorem test_dist16 : result (fun t => (Memory.find t.inf.out 257, t.inf.bitpos)) (exec (.dist16 0) (reaching 257)) = some (some 0x7A, 12) := by
  decide +kernel
theorem test_dist17 : result (fun t => (Memory.find t.inf.out 385, t.inf.bitpos)) (exec (.dist17 0) (reaching 385)) = some (some 0x7A, 12) := by
  decide +kernel
theorem test_dist18 : result (fun t => (Memory.find t.inf.out 513, t.inf.bitpos)) (exec (.dist18 0) (reaching 513)) = some (some 0x7A, 13) := by
  decide +kernel
theorem test_dist19 : result (fun t => (Memory.find t.inf.out 769, t.inf.bitpos)) (exec (.dist19 0) (reaching 769)) = some (some 0x7A, 13) := by
  decide +kernel
theorem test_dist20 : result (fun t => (Memory.find t.inf.out 1025, t.inf.bitpos)) (exec (.dist20 0) (reaching 1025)) = some (some 0x7A, 14) := by
  decide +kernel
theorem test_dist21 : result (fun t => (Memory.find t.inf.out 1537, t.inf.bitpos)) (exec (.dist21 0) (reaching 1537)) = some (some 0x7A, 14) := by
  decide +kernel
theorem test_dist22 : result (fun t => (Memory.find t.inf.out 2049, t.inf.bitpos)) (exec (.dist22 0) (reaching 2049)) = some (some 0x7A, 15) := by
  decide +kernel
theorem test_dist23 : result (fun t => (Memory.find t.inf.out 3073, t.inf.bitpos)) (exec (.dist23 0) (reaching 3073)) = some (some 0x7A, 15) := by
  decide +kernel
theorem test_dist24 : result (fun t => (Memory.find t.inf.out 4097, t.inf.bitpos)) (exec (.dist24 0) (reaching 4097)) = some (some 0x7A, 16) := by
  decide +kernel
theorem test_dist25 : result (fun t => (Memory.find t.inf.out 6145, t.inf.bitpos)) (exec (.dist25 0) (reaching 6145)) = some (some 0x7A, 16) := by
  decide +kernel
theorem test_dist26 : result (fun t => (Memory.find t.inf.out 8193, t.inf.bitpos)) (exec (.dist26 0) (reaching 8193)) = some (some 0x7A, 17) := by
  decide +kernel
theorem test_dist27 : result (fun t => (Memory.find t.inf.out 12289, t.inf.bitpos)) (exec (.dist27 0) (reaching 12289)) = some (some 0x7A, 17) := by
  decide +kernel
theorem test_dist28 : result (fun t => (Memory.find t.inf.out 16385, t.inf.bitpos)) (exec (.dist28 0) (reaching 16385)) = some (some 0x7A, 18) := by
  decide +kernel
theorem test_dist29 : result (fun t => (Memory.find t.inf.out 24577, t.inf.bitpos)) (exec (.dist29 0) (reaching 24577)) = some (some 0x7A, 18) := by
  decide +kernel
/-- R201: the window byte at distance 32768 is read before it is overwritten. -/
theorem test_dist29_farthest :
    result (fun t => (Memory.find t.inf.out 32768, Memory.find t.inf.win 0)) (exec (.dist29 8191) (reaching 32768)) =
      some (some 0x7A, some 0x7A) := by decide +kernel
theorem test_rsv30 : result (fun t => t.inf.err) (exec .rsv30 (reaching 1)) = some 16 := by decide
theorem test_rsv31 : result (fun t => t.inf.err) (exec .rsv31 (reaching 1)) = some 16 := by decide
/-- The example of R131: the trailer of "Hello". -/
def helloDone (expectLen : Nat) : State :=
  (onBytes .trailer [5, 0x8C, 1, 0xF5]).onInf fun u => { u with s1 := 0x01F5, s2 := 0x058C, outCount := 5, expectLen := expectLen }
theorem test_ztrailer :
    result (fun t => (t.inf.phase, t.inf.flags, t.inf.bitpos)) (exec (.ztrailer 0x058C01F5) (helloDone 5)) =
      some (.done, ⟨false, true, false, true⟩, 32) := by decide
theorem test_ztrailer_too_few : result (fun t => t.inf.err) (exec (.ztrailer 0x058C01F5) (helloDone 6)) = some 18 := by decide

/-! ### CRC -/

/-- R221: after `INIT`, `CRC_VALUE` reads 0. -/
theorem test_init :
    result (fun t => (t.crc.cstate, t.crc.active, t.readReg .crc 6)) (exec .init State.reset) = some (.accum, true, 0) := by
  decide
/-- The example of R222. -/
theorem test_byte :
    result (fun t => (t.crc.reg, t.readReg .crc 6, t.crc.tag)) (exec (.byte 0x61) accumulating) =
      some (0x174841BC, 0xE8B7BE43, 0x61000000) := by decide
/-- The examples of R223: "IEND". -/
theorem test_check :
    (crcFeed [0x49, 0x45, 0x4E, 0x44] accumulating).map (fun s => result (fun t => t.crc.cstate) (exec (.check 0xAE426082) s)) =
      some (some .matched) := by decide +kernel
theorem test_check_mismatch :
    (crcFeed [0x49, 0x45, 0x4E, 0x44] accumulating).map
      (fun s => result (fun t => (t.crc.cstate, t.crc.err, t.crc.errInfo)) (exec (.check 0xAE426083) s)) =
      some (some (.fault, 3, 0x49454E44)) := by decide +kernel
/-- R44, R310: a reset of CRC leaves INF alone. -/
theorem test_crcReset :
    result (fun t => (t.crc.cstate, t.crc.reg, t.inf.phase)) (exec .crcReset ((inFixed []).onCrc fun u => { u with cstate := .fault })) =
      some (.idle, 0xFFFFFFFF, .sym) := by decide

/-! ### DEF -/

/-- The first three bytes of `RAW` after a scanline instruction. -/
def rowOf (i : Instr) (bytes : List Nat) : Option (List (Option Byte)) :=
  result (fun t => bytesAt t.dfl.raw 0 3) (exec i (inRows bytes))

/-- The examples of R243 to R248, `BPP` = 1, first row. -/
theorem test_ft0 : rowOf .ft0 [0, 1, 2, 3] = some [some 1, some 2, some 3] := by decide
theorem test_ft1 : rowOf .ft1 [1, 10, 20, 250] = some [some 0x0A, some 0x1E, some 0x18] := by decide
theorem test_ft2 : rowOf .ft2 [2, 5, 6, 7] = some [some 5, some 6, some 7] := by decide
theorem test_ft3 : rowOf .ft3 [3, 10, 10, 10] = some [some 0x0A, some 0x0F, some 0x11] := by decide
theorem test_ft4 : rowOf .ft4 [4, 10, 10, 10] = some [some 10, some 20, some 30] := by decide

/-- The same machine on its second row, after the row `p`; the sub-image is finished by it. -/
def secondRow (i : Instr) (p : List Nat) (bytes : List Nat) : Option (List (Option Byte) × Nat × Nat × Memory) :=
  result (fun t => (bytesAt t.dfl.raw 3 3, t.dfl.pass, t.dfl.row, t.dfl.prev))
    (exec i ((inRows bytes).onDfl fun u => { u with row := 1, opos := 3, prev := cells 0 p, cur := cells 0 p }))

/-- The examples of R246, R247, R248: the second row; afterwards the next sub-image is `NPASS`, `row` 0, `prev` zero (R242). -/
theorem test_ft2_second : secondRow .ft2 [5, 6, 7] [2, 1, 1, 250] = some ([some 6, some 7, some 1], 1, 0, []) := by decide
theorem test_ft3_second :
    secondRow .ft3 [255, 255, 255] [3, 1, 1, 1] = some ([some 0x80, some 0xC0, some 0xE0], 1, 0, []) := by decide
theorem test_ft4_second : secondRow .ft4 [10, 20, 30] [4, 1, 2, 3] = some ([some 0x0B, some 0x16, some 0x21], 1, 0, []) := by
  decide
/-- R245: with `BPP` = 3 the byte to the left is three back. -/
theorem test_ft1_bpp3 :
    result (fun t => bytesAt t.dfl.raw 0 6) (exec .ft1 ((inRows [1, 10, 20, 30, 1, 2, 3]).onDfl fun u =>
      { u with bpp := 3, rowBytes := u.rowBytes.set 0 6 })) =
      some [some 0x0A, some 0x14, some 0x1E, some 0x0B, some 0x16, some 0x21] := by decide
theorem test_ft0_short : result (fun t => (t.dfl.err, t.dfl.ipos)) (exec .ft0 (inRows [0, 1, 2])) = some (18, 0) := by decide
theorem test_ftInvalid :
    result (fun t => (t.dfl.err, t.dfl.ftype, t.dfl.errInfo)) (exec (.ftInvalid 9) (inRows [9])) = some (19, 9, 0) := by decide
theorem test_defEnd : result (fun t => t.dfl.dphase) (exec .defEnd (inRows [])) = some .done := by decide
theorem test_defEnd_excess : result (fun t => t.dfl.err) (exec .defEnd (inRows [1])) = some 32 := by decide

/-! ### Control -/

theorem test_infStart :
    result (fun t => (t.inf.phase, t.inf.flags.busy, t.inf.s1)) (exec .infStart State.reset) = some (.zhdr, true, 1) := by decide
/-- R44: ignored while busy. -/
theorem test_infStart_busy : result (fun t => t.inf.phase) (exec .infStart (inFixed [])) = some .sym := by decide
/-- R242: the first sub-image has no columns, so the start is at the second. -/
theorem test_defStart :
    result (fun t => (t.dfl.dphase, t.dfl.pass)) (exec .defStart (State.reset.onDfl fun u =>
      { u with bpp := 1, npass := 2, rowBytes := u.rowBytes.set 1 3, rows := (u.rows.set 0 1).set 1 1 })) =
      some (.row, 1) := by decide
/-- R241: `BPP` = 0 is illegal. -/
theorem test_defStart_config : result (fun t => (t.dfl.dphase, t.dfl.err)) (exec .defStart State.reset) = some (.fault, 34) := by
  decide
theorem test_infReset : result (fun t => (t.inf.phase, t.inf.flags)) (exec .infReset (inFixed [0])) = some (.idle, .clear) := by
  decide
theorem test_defReset : result (fun t => (t.dfl.dphase, t.dfl.bpp)) (exec .defReset (inRows [])) = some (.idle, 0) := by decide

/-! ### Registers (R41 to R43, R45) -/

/-- `INF_STATUS` of INF in `SYM` (7) in a final fixed block: BUSY, PHASE, BFINAL, BTYPE = 1. -/
theorem test_status : ((inFixed []).onInf fun u => { u with bfinal := true, btype := 1 }).readReg .inf 1 =
    1 + 16 * 7 + 256 + 512 := by decide
theorem test_adler_register : (afterA []).readReg .inf 7 = 0x00620062 := by decide
theorem test_config_write :
    result (fun t => (t.readReg .dfl 5, t.readReg .dfl 9)) (hostWrite .dfl 5 0x13 State.reset) = some (3, 0) := by decide +kernel
theorem test_config_write_busy : result (fun t => t.inf.inLen) (hostWrite .inf 4 99 (inFixed [0])) = some 1 := by
  decide +kernel

/-! ### Steps -/

/-- INF's turn from its agenda: the block header at bit 16 after `78 9C`, byte `4B` (the example of R150). -/
theorem test_step_inf :
    result (fun t => (t.inf.phase, t.inf.bfinal, t.agenda))
      (step (State.turn (.unit .inf) ((onBytes .blkhdr [0x78, 0x9C, 0x4B]).onInf fun u => { u with bitpos := 16 }))) =
      some (.sym, true, []) := by decide +kernel
/-- With an empty agenda the busy unit goes on. -/
theorem test_step_dfl :
    result (fun t => bytesAt t.dfl.raw 0 3) (step (inRows [1, 10, 20, 250])) = some [some 0x0A, some 0x1E, some 0x18] := by
  decide +kernel
theorem test_step_host : result (fun t => t.crc.reg) (step (State.turn (.host (.write .crc 4 0x61)) accumulating)) = some 0x174841BC := by
  decide +kernel
/-- R24: with 5-bit counters an output of 32 bytes has outgrown them. -/
theorem test_step_outgrown :
    refusal (step { (inFixed [0x89]).onInf (fun u => { u with outCount := 31 }) with params := ⟨.strict, some 5⟩ }) =
      some .counterOutgrown := by decide +kernel
/-- A word of the opcode table placed for the very next step. -/
theorem test_fetch_zhdr :
    result (fun t => (t.inf.phase, t.inf.bitpos)) (step (State.reset.withFetchWord 16 0x0178)) = some (.blkhdr, 16) := by
  decide +kernel
theorem test_fetch_blkRsv : result (fun t => t.inf.err) (step (State.reset.withFetchWord 8 6)) = some 16 := by decide +kernel
theorem test_fetch_ft2 : result (fun t => (t.dfl.ftype, t.dfl.opos)) (step (State.reset.withFetchWord 8 2)) = some (2, 1) := by
  decide +kernel
theorem test_fetch_init : result (fun t => t.crc.cstate) (step (State.reset.withFetchWord 32 1)) = some .accum := by decide +kernel
theorem test_table_words :
    (decodeTableWord 16 8, decodeTableWord 8 6, decodeTableWord 8 4, decodeTableWord 16 0, decodeTableWord 32 2) =
      (some (.zhdr 8 0), some (.blkRsv false), some .ft4, some (.dynhdr 0 0 0), some .crcReset) := by decide +kernel

/-! ### Witnesses: a concrete state and operands that meet the hypotheses of each statement

One theorem for each clause that has hypotheses; the boundary values are those of the clause. -/

/-- Whether an outcome is a next state with a property. -/
def ends (p : State → Bool) (o : Host.Outcome State Fault Refusal) : Bool :=
  match o with
  | .next s => p s
  | .fault _ => false
  | .refused _ => false

theorem ends_spec {p : State → Bool} {o : Host.Outcome State Fault Refusal} (h : ends p o = true) :
    ∃ t, o = .next t ∧ p t = true := by
  cases o with
  | next s => exact ⟨s, rfl, h⟩
  | fault _ => exact absurd h (by simp [ends])
  | refused _ => exact absurd h (by simp [ends])

theorem next_spec {o : Host.Outcome State Fault Refusal} (h : ends (fun _ => true) o = true) : ∃ t, o = .next t :=
  (ends_spec h).imp fun _ h => h.1

theorem ok_of_read {c : Ctx} {bits : List Bool} {r : Instr × List Bool} (h : read c bits = some r) :
    decode c bits = .ok r := by
  unfold read at h
  cases hd : decode c bits with
  | ok r' => rw [hd] at h; simp only [Option.some.injEq] at h; rw [h]
  | error e => rw [hd] at h; simp at h

theorem error_of_rejected {c : Ctx} {bits : List Bool} {r : Reject} (h : rejected c bits = some r) :
    decode c bits = .error r := by
  unfold rejected at h
  cases hd : decode c bits with
  | ok r' => rw [hd] at h; simp at h
  | error e => rw [hd] at h; simp only [Option.some.injEq] at h; rw [h]

/-! #### Encoding -/

theorem witness_DecodeOfEncode :
    (Instr.len265 1).wellFormed = true ∧ encodable (.sym fixedLlLen) (.len265 1) = true ∧
      classify (Ctx.sym fixedLlLen).lens ≠ .overSubscribed := by decide +kernel
/-- A stored block after three pad bits 1. -/
theorem witness_EncodeOfDecode :
    (∀ u n, Ctx.stored 3 ≠ .reg u n) ∧ (∀ n, Ctx.stored 3 = .dynclen n → 4 ≤ n ∧ n ≤ 19) ∧
      decode (.stored 3) ([true, true, true] ++ List.replicate 16 false ++ List.replicate 16 true) =
        .ok (.stored 0 0xFFFF, []) :=
  ⟨fun _ _ h => (nomatch h), fun _ h => (nomatch h), ok_of_read (by decide)⟩
/-- The smallest count of code-length-code lengths. -/
theorem witness_EncodeOfDecode_clens :
    (∀ u n, Ctx.dynclen 4 ≠ .reg u n) ∧ (∀ n, Ctx.dynclen 4 = .dynclen n → 4 ≤ n ∧ n ≤ 19) ∧
      decode (.dynclen 4) (List.replicate 12 true) = .ok (.clens [7, 7, 7, 7], []) :=
  ⟨fun _ _ h => (nomatch h), fun _ h => by injection h; omega, ok_of_read (by decide)⟩
theorem witness_CodesFormAPrefixCode :
    classify [1, 2, 2] ≠ .overSubscribed ∧ ([1, 2, 2] : List CodeLen).getD 2 0 ≠ 0 ∧
      codeBits [1, 2, 2] 2 <+: codeBits [1, 2, 2] 2 := by decide
theorem witness_CodesFormAPrefixCode_complete :
    classify [1, 2, 2] = .complete ∧ 15 ≤ (List.replicate 15 true).length := by decide
theorem witness_CanonicalCodesOfASet : 2 < ([1, 2, 2] : List CodeLen).length := by decide
/-- All eight bits of one byte remain; `n` = 8 and `n` = 9 are the two sides of the test. -/
theorem witness_FieldReadIsGetbits :
    (onBytes .blkhdr [0x4B]).inf.bitpos ≤ 8 * (onBytes .blkhdr [0x4B]).inf.inLen := by decide
theorem witness_AlignSkipsUnexaminedBits :
    3 ≤ 8 * 1 ∧ (List.replicate 5 true).length = padBits 3 ∧ (List.replicate 5 false).length = padBits 3 := by decide

/-! #### Steps -/

theorem witness_StepRunsTheDecodedInstruction :
    (State.turn (.unit .inf) (onBytes .blkhdr [1])).agenda = .unit .inf :: [] ∧
    (State.turn (.unit .inf) (onBytes .blkhdr [1])).inf.ctx = some .blkhdr ∧
    decode .blkhdr (State.turn (.unit .inf) (onBytes .blkhdr [1])).inf.stream =
      .ok (.blkStored true, List.replicate 5 false) ∧
    ∀ t, exec (.blkStored true) { State.turn (.unit .inf) (onBytes .blkhdr [1]) with agenda := [] } = .next t →
      t.inf.matchLen = none :=
  ⟨rfl, rfl, ok_of_read (by decide), fun t h => by
    have := ends_spec (p := fun t => t.inf.matchLen == none)
      (o := exec (.blkStored true) { State.turn (.unit .inf) (onBytes .blkhdr [1]) with agenda := [] }) (by decide)
    obtain ⟨t', h1, h2⟩ := this
    rw [h] at h1; injection h1 with h1; subst h1; simpa using h2⟩
/-- A match: the length half leaves a length, and the distance half decodes. -/
theorem witness_StepRunsTheDecodedInstruction_match :
    (State.turn (.unit .inf) (afterA [0x70, 0])).inf.ctx = some (.sym fixedLlLen) ∧
    decode (.sym fixedLlLen) (State.turn (.unit .inf) (afterA [0x70, 0])).inf.stream =
      .ok (.len263, List.replicate 9 false) ∧
    exec .len263 { State.turn (.unit .inf) (afterA [0x70, 0]) with agenda := [] } =
      .next ((afterA [0x70, 0]).onInf (Inf.lengthHalf 263 0)) ∧
    ((afterA [0x70, 0]).onInf (Inf.lengthHalf 263 0)).inf.matchLen ≠ none ∧
    ((afterA [0x70, 0]).onInf (Inf.lengthHalf 263 0)).inf.ctx = some (.dist fixedDLen) ∧
    decode (.dist fixedDLen) ((afterA [0x70, 0]).onInf (Inf.lengthHalf 263 0)).inf.stream =
      .ok (.dist0, List.replicate 4 false) :=
  ⟨rfl, ok_of_read (by decide +kernel), rfl, by decide, by decide, ok_of_read (by decide +kernel)⟩
theorem witness_StepRunsTheDecodedInstruction_scanline :
    (State.turn (.unit .dfl) (inRows [4])).agenda = .unit .dfl :: [] ∧ (inRows [4]).dfl.dphase = .row ∧
    (inRows [4]).dfl.pass ≤ (inRows [4]).dfl.npass.toNat ∧ decode .row (inRows [4]).dfl.stream = .ok (.ft4, []) :=
  ⟨rfl, rfl, by decide, ok_of_read (by decide)⟩
/-- The last value of `pass`: the end step. -/
theorem witness_StepRunsTheDecodedInstruction_end :
    ((inRows [4]).onDfl fun u => { u with pass := 1 }).dfl.pass ≤
      ((inRows [4]).onDfl fun u => { u with pass := 1 }).dfl.npass.toNat ∧
    decode .defEnd ((inRows [4]).onDfl fun u => { u with pass := 1 }).dfl.stream = .ok (.defEnd, fieldBits 8 4) :=
  ⟨by decide, ok_of_read (by decide)⟩
theorem witness_StepRunsTheDecodedInstruction_command :
    (State.turn (.host (.write .crc 5 7)) accumulating).agenda = .host (.write .crc 5 7) :: [] ∧
    decode (.reg .crc 5) (fieldBits 32 7) = .ok (.check 7, []) :=
  ⟨rfl, ok_of_read (by decide +kernel)⟩
theorem witness_RejectedBitsFault :
    (onBytes .blkhdr []).inf.matchLen = none ∧ (onBytes .blkhdr []).inf.ctx = some .blkhdr ∧
    decode .blkhdr (onBytes .blkhdr []).inf.stream = .error .endOfInput :=
  ⟨rfl, rfl, error_of_rejected (by decide)⟩
/-- A length symbol, then one bit where a distance code of five is expected. -/
theorem witness_RejectedBitsFault_match :
    (afterA [0x70]).inf.matchLen = none ∧ (afterA [0x70]).inf.phase = .sym ∧
    decode (.sym fixedLlLen) (afterA [0x70]).inf.stream = .ok (.len263, [false]) ∧
    Instr.coded .len263 = some ⟨.literalLength, 263, 0, 0⟩ ∧ decode (.dist fixedDLen) [false] = .error .endOfInput :=
  ⟨rfl, rfl, ok_of_read (by decide +kernel), rfl, error_of_rejected (by decide)⟩
theorem witness_QuiescentUnitsDoNotMove :
    State.reset.inf.phase.running = false ∧ State.reset.inf.matchLen = none ∧ State.reset.dfl.dphase ≠ .row := by decide

/-! #### Container and blocks -/

theorem witness_ZlibHeaderCheck :
    (onBytes .zhdr [0x78, 0x9C]).inf.bitpos + 16 ≤ 8 * (onBytes .zhdr [0x78, 0x9C]).inf.inLen ∧
    (0x78 : Byte).toNat % 16 = 8 ∧ (0x78 : Byte).toNat / 16 ≤ 7 ∧
    ((0x78 : Byte).toNat * 256 + (0x9C : Byte).toNat) % 31 = 0 ∧ (0x9C : Byte).toNat / 32 % 2 = 0 := by decide
/-- `CINFO` = 8, the other tests passing: 0x8805 is not a multiple of 31, 0x881C is. -/
theorem witness_ZlibHeaderCheck_bad :
    (onBytes .zhdr [0x88, 0x1C]).inf.bitpos + 16 ≤ 8 * (onBytes .zhdr [0x88, 0x1C]).inf.inLen ∧
    ¬ ((0x88 : Byte).toNat % 16 = 8 ∧ (0x88 : Byte).toNat / 16 ≤ 7 ∧
      ((0x88 : Byte).toNat * 256 + (0x1C : Byte).toNat) % 31 = 0 ∧ (0x1C : Byte).toNat / 32 % 2 = 0) := by decide
theorem witness_ZlibHeaderCheck_short :
    8 * (onBytes .zhdr [0x78]).inf.inLen < (onBytes .zhdr [0x78]).inf.bitpos + 16 := by decide
theorem witness_BlockHeaders :
    (onBytes .blkhdr [0]).inf.bitpos + 3 ≤ 8 * (onBytes .blkhdr [0]).inf.inLen ∧ (onBytes .blkhdr [0]).inf.matchLen = none := by
  decide
theorem witness_FixedBlockHeader :
    ((onBytes .blkhdr [0]).onInf fun u => { u with bitpos := 5 }).inf.bitpos + 3 ≤
      8 * ((onBytes .blkhdr [0]).onInf fun u => { u with bitpos := 5 }).inf.inLen := by decide
/-- A body of one byte, the last of `IN`. -/
theorem witness_StoredBlock :
    (0 + 7) / 8 * 8 + 32 ≤ 8 * (onBytes .stored [1, 0, 0xFE, 0xFF, 7]).inf.inLen ∧ (1 ^^^ 0xFFFE : BitVec 16) = 0xFFFF ∧
    (0 + 7) / 8 + 4 + (1 : BitVec 16).toNat ≤ (onBytes .stored [1, 0, 0xFE, 0xFF, 7]).inf.inLen := by decide
theorem witness_StoredBlock_no_pair :
    8 * (onBytes .stored [1, 0, 0xFE]).inf.inLen < ((onBytes .stored [1, 0, 0xFE]).inf.bitpos + 7) / 8 * 8 + 32 := by decide
theorem witness_StoredBlock_bad_pair :
    ((onBytes .stored [1, 0, 1, 0]).inf.bitpos + 7) / 8 * 8 + 32 ≤ 8 * (onBytes .stored [1, 0, 1, 0]).inf.inLen ∧
    (1 ^^^ 1 : BitVec 16) ≠ 0xFFFF := by decide
theorem witness_StoredBlock_short_body :
    ((onBytes .stored [1, 0, 0xFE, 0xFF]).inf.bitpos + 7) / 8 * 8 + 32 ≤ 8 * (onBytes .stored [1, 0, 0xFE, 0xFF]).inf.inLen ∧
    (1 ^^^ 0xFFFE : BitVec 16) = 0xFFFF ∧ (onBytes .stored [1, 0, 0xFE, 0xFF]).inf.inLen <
      ((onBytes .stored [1, 0, 0xFE, 0xFF]).inf.bitpos + 7) / 8 + 4 + (1 : BitVec 16).toNat := by decide
/-- The largest counts accepted. -/
theorem witness_DynamicHeaderCounts :
    (onBytes .dynhdr [0, 0]).inf.bitpos + 14 ≤ 8 * (onBytes .dynhdr [0, 0]).inf.inLen ∧
    (29 : BitVec 5).toNat + 257 ≤ 286 ∧ (29 : BitVec 5).toNat + 1 ≤ 30 := by decide
/-- The smallest count refused. -/
theorem witness_DynamicHeaderCounts_bad : 286 < (30 : BitVec 5).toNat + 257 ∨ 30 < (0 : BitVec 5).toNat + 1 := by decide
theorem witness_DynamicHeaderCounts_short :
    8 * (onBytes .dynhdr [0]).inf.inLen < (onBytes .dynhdr [0]).inf.bitpos + 14 := by decide

/-- The lengths of the example of R157 and where they go. -/
def exampleLens : List (BitVec 3) := [0, 0, 1, 0, 0, 0, 0, 0, 0, 0, 0, 0, 0, 0, 0, 2, 0, 2]
def exampleCl : List CodeLen := [0, 2, 2, 0, 0, 0, 0, 0, 0, 0, 0, 0, 0, 0, 0, 0, 0, 0, 1]

theorem witness_CodeLengthCodeIsChecked :
    exampleLens.length ≤ 19 ∧ exampleCl.length = 19 ∧
    (∀ k < 19, exampleCl.getD (clOrder.getD k 0) 0 = if k < exampleLens.length then (exampleLens.getD k 0).setWidth 4
      else (onBytes .dynclen (List.replicate 7 0)).inf.clLen.getD (clOrder.getD k 0) 0) ∧
    (onBytes .dynclen (List.replicate 7 0)).inf.bitpos + 3 * exampleLens.length ≤
      8 * (onBytes .dynclen (List.replicate 7 0)).inf.inLen ∧ kraftSum exampleCl = 32768 := by decide
theorem witness_CodeLengthCodeIsChecked_bad :
    (∀ k < 19, (List.replicate 19 (0 : CodeLen)).getD (clOrder.getD k 0) 0 =
      if k < 4 then (([0, 0, 0, 0] : List (BitVec 3)).getD k 0).setWidth 4
      else (onBytes .dynclen [0, 0]).inf.clLen.getD (clOrder.getD k 0) 0) ∧
    (onBytes .dynclen [0, 0]).inf.bitpos + 3 * 4 ≤ 8 * (onBytes .dynclen [0, 0]).inf.inLen ∧
    kraftSum (List.replicate 19 0) ≠ 32768 := by decide
theorem witness_CodeLengthCodeIsChecked_short :
    8 * (onBytes .dynclen [0]).inf.inLen < (onBytes .dynclen [0]).inf.bitpos + 3 * 4 := by decide

/-- INF reading lengths with `lidx` = 255 of 257 + 10 read, the last one a 5: a repeat crosses into the distance lengths. -/
def atBorder : State :=
  (inLens 255 [0, 0]).onInf fun u => { u with ndist := 10, llLen := u.llLen.set 254 5 }

theorem witness_CodeLengthsAreAppended :
    Instr.coded (.cl16 2) = some ⟨.codeLength, 16, 2, 2⟩ ∧
    (5 : CodeLen) = atBorder.inf.seqLen (atBorder.inf.lidx - 1) ∧
    atBorder.inf.bitpos + (atBorder.inf.clLen.getD 16 0).toNat + 2 ≤ 8 * atBorder.inf.inLen ∧ atBorder.inf.lidx ≠ 0 ∧
    atBorder.inf.lidx + 5 < atBorder.inf.nlen + atBorder.inf.ndist ∧
    (∀ j < 288, ((atBorder.inf.llLen.set 255 5).set 256 5).getD j 0 =
      if 16 ≤ 16 ∧ atBorder.inf.lidx ≤ j ∧ j < atBorder.inf.lidx + 5 ∧ j < atBorder.inf.nlen then 5
      else atBorder.inf.llLen.getD j 0) ∧
    (∀ j < 32, (((atBorder.inf.dLen.set 0 5).set 1 5).set 2 5).getD j 0 =
      if 16 ≤ 16 ∧ atBorder.inf.lidx ≤ atBorder.inf.nlen + j ∧ atBorder.inf.nlen + j < atBorder.inf.lidx + 5 then 5
      else atBorder.inf.dLen.getD j 0) := by decide +kernel

/-- INF one distance length short of the two 1-bit codes that make both sets complete. -/
def lastLength : State :=
  (inLens 258 [0, 0]).onInf fun u =>
    { u with ndist := 2, llLen := (u.llLen.set 256 1).set 97 1, dLen := u.dLen.set 0 1 }

theorem witness_TableCompletion :
    Instr.coded .cl1 = some ⟨.codeLength, 1, 0, 0⟩ ∧
    lastLength.inf.bitpos + (lastLength.inf.clLen.getD 1 0).toNat + 0 ≤ 8 * lastLength.inf.inLen ∧
    lastLength.inf.lidx + 1 = lastLength.inf.nlen + lastLength.inf.ndist ∧
    lastLength.inf.llLen.length = 288 ∧ (lastLength.inf.dLen.set 1 1).length = 32 ∧
    (∀ j < 288, lastLength.inf.llLen.getD j 0 =
      if 1 ≤ 16 ∧ lastLength.inf.lidx ≤ j ∧ j < lastLength.inf.lidx + 1 ∧ j < lastLength.inf.nlen then 1
      else lastLength.inf.llLen.getD j 0) ∧
    (∀ j < 32, (lastLength.inf.dLen.set 1 1).getD j 0 =
      if 1 ≤ 16 ∧ lastLength.inf.lidx ≤ lastLength.inf.nlen + j ∧ lastLength.inf.nlen + j < lastLength.inf.lidx + 1 then 1
      else lastLength.inf.dLen.getD j 0) := by decide +kernel
theorem witness_TableCompletion_accepted :
    tablesAccepted .strict lastLength.inf.llLen (lastLength.inf.dLen.set 1 1) := by unfold tablesAccepted; decide +kernel
/-- The one distance code of length 1: not accepted under `strict`, accepted under `rfc`. -/
theorem witness_TableCompletion_strict : ¬ tablesAccepted .strict lastLength.inf.llLen lastLength.inf.dLen := by
  unfold tablesAccepted; decide +kernel
theorem witness_TableCompletion_rfc : tablesAccepted .rfc lastLength.inf.llLen lastLength.inf.dLen :=
  ⟨by decide, by decide +kernel, .inr ⟨rfl, .inr ⟨0, by decide, by decide, by decide⟩⟩⟩
theorem witness_CodeLengthElementFaults_short :
    8 * (inLens 0 []).inf.inLen < (inLens 0 []).inf.bitpos + ((inLens 0 []).inf.clLen.getD 3 0).toNat := by decide
theorem witness_CodeLengthElementFaults_no_previous :
    (inLens 0 [0]).inf.bitpos + ((inLens 0 [0]).inf.clLen.getD 16 0).toNat ≤ 8 * (inLens 0 [0]).inf.inLen ∧
    (inLens 0 [0]).inf.lidx = 0 := by decide
theorem witness_CodeLengthElementFaults_short_extra :
    8 * (inLens 0 [0]).inf.inLen < (inLens 0 [0]).inf.bitpos + ((inLens 0 [0]).inf.clLen.getD 18 0).toNat + 7 := by decide
/-- Two lengths are left and the shortest repeat is three. -/
theorem witness_CodeLengthElementFaults_overrun :
    Instr.coded (.cl17 0) = some ⟨.codeLength, 17, 3, 0⟩ ∧
    (inLens 256 [0]).inf.bitpos + ((inLens 256 [0]).inf.clLen.getD 17 0).toNat + 3 ≤ 8 * (inLens 256 [0]).inf.inLen ∧
    (inLens 256 [0]).inf.nlen + (inLens 256 [0]).inf.ndist < (inLens 256 [0]).inf.lidx + (3 + 0) := by decide

/-! #### Symbols -/

theorem witness_LiteralAndEndOfBlock :
    (inFixed [0]).inf.bitpos + ((inFixed [0]).inf.llLen.getD (0x8F : Byte).toNat 0).toNat ≤ 8 * (inFixed [0]).inf.inLen ∧
    (inFixed [0]).inf.bitpos + ((inFixed [0]).inf.llLen.getD 256 0).toNat ≤ 8 * (inFixed [0]).inf.inLen := by decide
theorem witness_MatchLengthHalf :
    Instr.coded (.len284 31) = some ⟨.literalLength, 284, 5, 31⟩ ∧
    (inFixed [0, 0]).inf.bitpos + ((inFixed [0, 0]).inf.llLen.getD 284 0).toNat + 5 ≤ 8 * (inFixed [0, 0]).inf.inLen := by decide

/-- INF between the halves of a match of length 9, "a" output so far. -/
def halfMatch : State := (afterA [0]).onInf fun u => { u with matchLen := some 9 }

/-- The distance is `out_count`, the farthest the output allows. -/
theorem witness_MatchDistanceHalf :
    Instr.coded .dist0 = some ⟨.distance, 0, 0, 0⟩ ∧ halfMatch.inf.matchLen = some 9 ∧ halfMatch.inf.windowInv ∧
    halfMatch.inf.bitpos + (halfMatch.inf.dLen.getD 0 0).toNat + 0 ≤ 8 * halfMatch.inf.inLen ∧
    distBase 0 + 0 ≤ halfMatch.inf.outCount := by decide
/-- One farther. -/
theorem witness_MatchDistanceHalf_too_far :
    Instr.coded .dist1 = some ⟨.distance, 1, 0, 0⟩ ∧ halfMatch.inf.outCount < distBase 1 + 0 := by decide
theorem witness_MatchIsOneStep :
    (afterA [0x70, 0]).inf.phase = .sym ∧ (afterA [0x70, 0]).inf.matchLen = none ∧ (afterA [0x70, 0]).inf.windowInv ∧
    decode (.sym (afterA [0x70, 0]).inf.llLen) (afterA [0x70, 0]).inf.stream = .ok (.len263, List.replicate 9 false) ∧
    Instr.coded .len263 = some ⟨.literalLength, 263, 0, 0⟩ ∧
    decode (.dist (afterA [0x70, 0]).inf.dLen) (List.replicate 9 false) = .ok (.dist0, List.replicate 4 false) ∧
    distBase 0 + 0 ≤ (afterA [0x70, 0]).inf.outCount :=
  ⟨rfl, rfl, by decide, ok_of_read (by decide +kernel), rfl, ok_of_read (by decide +kernel), by decide⟩
theorem witness_MatchIsOneStep_reserved :
    decode (.sym (afterA [0xF0, 7]).inf.llLen) (afterA [0xF0, 7]).inf.stream =
      .ok (.len263, [true, true, true, true, false, false, false, false, false]) ∧
    decode (.dist (afterA [0xF0, 7]).inf.dLen) [true, true, true, true, false, false, false, false, false] =
      .ok (.rsv30, List.replicate 4 false) ∧ Instr.coded .rsv30 = some ⟨.distance, 30, 0, 0⟩ :=
  ⟨ok_of_read (by decide +kernel), ok_of_read (by decide +kernel), rfl⟩
theorem witness_SymbolFaults :
    (inFixed [0x63]).inf.bitpos + ((inFixed [0x63]).inf.llLen.getD 287 0).toNat ≤ 8 * (inFixed [0x63]).inf.inLen ∧
    halfMatch.inf.bitpos + (halfMatch.inf.dLen.getD 31 0).toNat ≤ 8 * halfMatch.inf.inLen := by decide
theorem witness_SymbolFaults_short :
    Instr.coded (.len265 0) = some ⟨.literalLength, 265, 1, 0⟩ ∧
    8 * (inFixed []).inf.inLen < (inFixed []).inf.bitpos + ((inFixed []).inf.llLen.getD 265 0).toNat + 1 ∧
    Instr.coded (.dist4 0) = some ⟨.distance, 4, 1, 0⟩ ∧
    8 * (inFixed []).inf.inLen < (inFixed []).inf.bitpos + ((inFixed []).inf.dLen.getD 4 0).toNat + 1 := by decide

/-! #### CRC -/

/-- CRC in `FAULT`. -/
def crcFaulted : State :=
  State.reset.onCrc fun u => { u with cstate := .fault, fault := true, err := 3 }

theorem witness_CrcCommands :
    State.reset.crc.cstate ≠ .fault ∧ crcFaulted.crc.cstate = .fault ∧ accumulating.crc.cstate = .accum ∧
    accumulating.crc.reg ^^^ 0xFFFFFFFF = 0 ∧ accumulating.crc.reg ^^^ 0xFFFFFFFF ≠ 1 := by decide
theorem witness_CrcOfAChunk : State.reset.crc.cstate ≠ .fault ∧ ∃ t, exec .init State.reset = .next t :=
  ⟨by decide, _, rfl⟩
theorem witness_CrcValueRegister :
    State.reset.crc.cstate ≠ .fault ∧ (∃ t r, exec .init State.reset = .next t ∧ crcFeed [0x61] t = some r) ∧
    ∃ t, exec .crcReset State.reset = .next t := ⟨by decide, ⟨_, _, rfl, rfl⟩, _, rfl⟩
theorem witness_CrcIsLinear : ([0x61] : List Byte).length = ([0x62] : List Byte).length := by decide
/-- The last bit of the last byte. -/
theorem witness_CrcSeesEverySingleBit :
    1 < ([0x61, 0x62] : List Byte).length ∧ 7 < 8 ∧
    ([0x61, 0xE2] : List Byte) = ([0x61, 0x62] : List Byte).set 1 (([0x61, 0x62] : List Byte).getD 1 0 ^^^ BitVec.ofNat 8 (2 ^ 7)) ∧
    State.reset.crc.cstate ≠ .fault ∧
    ∃ t r q, exec .init State.reset = .next t ∧ crcFeed [0x61, 0xE2] t = some r ∧
      exec (.check (crc32 [0x61, 0x62])) r = .next q :=
  ⟨by decide, by decide, by decide, by decide, _, _, _, rfl, rfl, rfl⟩
/-- The top bit of the stored checksum, on the empty message. -/
theorem witness_CrcSeesEverySingleBit_checksum :
    31 < 32 ∧ ∃ t r q, exec .init State.reset = .next t ∧ crcFeed [] t = some r ∧
      exec (.check (crc32 [] ^^^ BitVec.ofNat 32 (2 ^ 31))) r = .next q := ⟨by decide, _, _, _, rfl, rfl, rfl⟩

/-! #### DEF -/

theorem witness_ScanlineIsReconstructed :
    3 = (inRows [1, 10, 20, 250]).dfl.rowBytes.getD (inRows [1, 10, 20, 250]).dfl.pass 0 ∧
    (inRows [1, 10, 20, 250]).dfl.memoryInv ∧ 1 ≤ (inRows [1, 10, 20, 250]).dfl.bpp.toNat ∧
    (inRows [1, 10, 20, 250]).dfl.pass < (inRows [1, 10, 20, 250]).dfl.npass.toNat ∧
    (inRows [1, 10, 20, 250]).dfl.ipos + 1 + 3 ≤ (inRows [1, 10, 20, 250]).dfl.inLen := by decide
theorem witness_ScanlineFaults :
    (inRows [1, 10, 20]).dfl.inLen < (inRows [1, 10, 20]).dfl.ipos + 1 +
      (inRows [1, 10, 20]).dfl.rowBytes.getD (inRows [1, 10, 20]).dfl.pass 0 := by decide
theorem witness_ScanlineFaults_no_byte :
    (inRows []).dfl.dphase = .row ∧ (inRows []).dfl.pass < (inRows []).dfl.npass.toNat ∧
    (inRows []).dfl.inLen ≤ (inRows []).dfl.ipos := by decide
/-- The smallest illegal byte. -/
theorem witness_IllegalFilterType :
    (inRows [5]).dfl.dphase = .row ∧ (inRows [5]).dfl.pass < (inRows [5]).dfl.npass.toNat ∧
    (inRows [5]).dfl.ipos < (inRows [5]).dfl.inLen ∧ 5 ≤ ((inRows [5]).dfl.dinByte (inRows [5]).dfl.ipos).toNat := by decide
/-- The end step with nothing left, and with one byte left. -/
theorem witness_DefilterEndStep :
    ((inRows []).onDfl fun u => { u with pass := 1 }).dfl.dphase = .row ∧
    ((inRows []).onDfl fun u => { u with pass := 1 }).dfl.pass = 1 ∧ (inRows []).dfl.npass.toNat = 1 ∧
    (inRows []).dfl.inLen ≤ (inRows []).dfl.ipos ∧ (inRows [1]).dfl.ipos < (inRows [1]).dfl.inLen := by decide
theorem witness_DefilterEndStep_empty :
    ∀ k < ((inRows []).onDfl fun u => { u with rows := List.replicate 7 0 }).dfl.npass.toNat,
      ((inRows []).onDfl fun u => { u with rows := List.replicate 7 0 }).dfl.rowBytes.getD k 0 = 0 ∨
      ((inRows []).onDfl fun u => { u with rows := List.replicate 7 0 }).dfl.rows.getD k 0 = 0 := by decide
theorem witness_NextSubImage : 0 ≤ (inRows []).dfl.npass.toNat ∧ 1 ≤ (inRows []).dfl.npass.toNat := by decide
theorem witness_PaethSelectsTheClosest : 255 < 256 ∧ 0 < 256 := by decide

/-! #### Control and the host -/

/-- A reset machine with counters of 5 bits, in which a run of 3 bytes fits and one of 4 does not. -/
def narrow (n : Nat) : State :=
  { State.reset.onInf (fun u => { u with inLen := n }) with params := ⟨.strict, some 5⟩ }

theorem witness_InfStart :
    (narrow 3).inf.flags.busy = false ∧ (narrow 3).inf.flags.fault = false ∧
    (∀ w, (narrow 3).params.cntW = some w → 8 * (narrow 3).inf.inLen < 2 ^ w ∧ (narrow 3).inf.expectLen < 2 ^ w) :=
  ⟨rfl, rfl, fun w h => by cases h; decide⟩
theorem witness_InfStart_ignored :
    (inFixed []).inf.flags.busy = true ∧
    ((narrow 4).inf.flags.busy = true ∨ (narrow 4).inf.flags.fault = true ∨
      ∃ w, (narrow 4).params.cntW = some w ∧ (2 ^ w ≤ 8 * (narrow 4).inf.inLen ∨ 2 ^ w ≤ (narrow 4).inf.expectLen)) :=
  ⟨rfl, .inr (.inr ⟨5, rfl, .inl (by decide)⟩)⟩

/-- A written `EXPECT_LEN` of 32 does not fit 5 bits and is not wrapped to 0: the run is not started (R24). -/
theorem test_start_after_long_expect_len :
    ends (fun t => ends (fun r => r.inf.phase == .idle && r.readReg .inf 5 == 32) (hostWrite .inf 0 1 t))
      (hostWrite .inf 5 32 (narrow 3)) = true := by decide

theorem witness_RunsThatDoNotFitAreNotStarted :
    (narrow 4).params.cntW = some 5 ∧ 2 ^ 5 ≤ 8 * (narrow 4).inf.inLen ∧ (narrow 3).inf.flags.busy = false ∧
    (4 = 4 ∧ 2 ^ 5 ≤ 8 * 4 ∨ 4 = 5 ∧ 2 ^ 5 ≤ 4) ∧ (5 = 4 ∧ 2 ^ 5 ≤ 8 * 32 ∨ 5 = 5 ∧ 2 ^ 5 ≤ 32) ∧
    (narrow 3).dfl.flags.busy = false := by decide

/-- The same machine with a row of 32 bytes in the one sub-image of DEF. -/
def narrowRows : State :=
  (narrow 3).onDfl fun u => { u with bpp := 1, npass := 1, rowBytes := u.rowBytes.set 0 32, rows := u.rows.set 0 1 }

theorem witness_RunsThatDoNotFitAreNotStarted_def :
    narrowRows.params.cntW = some 5 ∧
    ∃ k < narrowRows.dfl.npass.toNat, 2 ^ 5 ≤ narrowRows.dfl.rowBytes.getD k 0 ∨ 2 ^ 5 ≤ narrowRows.dfl.rows.getD k 0 :=
  ⟨rfl, 0, by decide, .inl (by decide)⟩

/-- A reset machine with `BPP` and `NPASS` set. -/
def configured (bpp npass : BitVec 4) : State := State.reset.onDfl fun u => { u with bpp := bpp, npass := npass }

/-- The largest legal configuration, and two one beyond. -/
theorem witness_DefStart :
    (configured 8 7).dfl.flags.busy = false ∧ (configured 8 7).dfl.flags.fault = false ∧
    1 ≤ (configured 8 7).dfl.bpp.toNat ∧ (configured 8 7).dfl.bpp.toNat ≤ 8 ∧ 1 ≤ (configured 8 7).dfl.npass.toNat ∧
    (configured 8 7).dfl.npass.toNat ≤ 7 ∧ 8 < (configured 9 7).dfl.bpp.toNat ∧ (configured 8 0).dfl.npass.toNat < 1 ∧
    (inRows []).dfl.flags.busy = true := by decide
theorem witness_DefStart_fits : (configured 8 7).dflFits ∧ (configured 9 7).dflFits ∧ (configured 8 0).dflFits :=
  ⟨fun _ h => (by cases h), fun _ h => (by cases h), fun _ h => (by cases h)⟩
theorem witness_ConfigurationWrites :
    (0 = 0 → 1 / 2 % 2 = 0) ∧ (inFixed []).inf.flags.busy = true ∧ (inRows []).dfl.flags.busy = true := by decide
theorem witness_ConfigurationWrites_idle :
    State.reset.inf.flags.busy = false ∧ State.reset.dfl.flags.busy = false ∧
    State.reset.dfl.rowBytes.length = 7 ∧ State.reset.dfl.rows.length = 7 := by decide
theorem witness_ConfigurationWrites_ignored :
    ¬ (1 = 0 ∨ 1 = 4 ∨ 1 = 5) ∧ ¬ (3 = 0 ∨ 4 ≤ 3 ∧ 3 ≤ 20) ∧ ¬ (21 = 0 ∨ 4 ≤ 21 ∧ 21 ≤ 20) ∧ 8 % 4 = 0 := by decide
theorem witness_StatusRegisterFields : ((inRows []).onDfl fun u => { u with pass := 7 }).dfl.pass ≤ 7 := by decide

/-- INF done with the output "a" and its checksum in the trailer. -/
def doneA : State :=
  (afterA [0x78, 0x9C]).onInf fun u => { u with phase := .done, flags := .ended }

theorem witness_HostAndTheBuffers :
    (inFixed []).inf.flags.busy = true ∧ (inRows []).dfl.flags.busy = true ∧ State.reset.inf.flags.busy = false ∧
    State.reset.dfl.flags.busy = false ∧ State.reset.inf.flags.outValid = false := by decide
theorem witness_HostAndTheBuffers_handoff :
    doneA.inf.flags.busy = false ∧ doneA.dfl.flags.busy = false ∧ doneA.inf.flags.done = true ∧
    doneA.inf.flags.outValid = true ∧ ∀ j < doneA.inf.outCount, (Memory.find doneA.inf.out j).isSome := by decide

theorem witness_HostAndTheBuffers_reads :
    doneA.inf.flags.busy = false ∧ doneA.inf.flags.outValid = true ∧ 0 < doneA.inf.outCount ∧
    (State.reset.onDfl fun u => { u with flags := .ended, opos := 1, raw := [(0, 7)] }).dfl.flags.outValid = true ∧
    0 < (State.reset.onDfl fun u => { u with flags := .ended, opos := 1, raw := [(0, 7)] }).dfl.opos := by decide

/-! #### Invariants and whole-machine statements -/

/-- INF in `SYM` with the literal of the example of R192 next. -/
def running : State := State.turn (.unit .inf) (afterA [0x89])

theorem witness_ControlStateStaysLegal : running.inf.controlInv ∧ ∃ t, step running = .next t :=
  ⟨by decide, next_spec (by decide +kernel)⟩
theorem witness_CodeTablesStayLegal :
    running.inf.controlInv ∧ running.inf.tablesInv ∧ ∃ t, step running = .next t :=
  ⟨by decide, ⟨by decide, by decide +kernel⟩, next_spec (by decide +kernel)⟩
theorem witness_WindowIsAViewOfTheOutput :
    running.inf.windowInv ∧ running.inf.memoryInv ∧ ∃ t, step running = .next t :=
  ⟨by decide, by decide, next_spec (by decide +kernel)⟩
theorem witness_ChecksumCoversTheOutput : running.inf.adlerInv ∧ ∃ t, step running = .next t :=
  ⟨by decide, next_spec (by decide +kernel)⟩
theorem witness_CrcStateStaysLegal :
    (State.turn (.host (.write .crc 4 0x61)) accumulating).crc.inv ∧
    ∃ t, step (State.turn (.host (.write .crc 4 0x61)) accumulating) = .next t :=
  ⟨by decide, next_spec (by decide +kernel)⟩
theorem witness_DefilterStateStaysLegal : (inRows [1, 10, 20, 250]).dfl.inv ∧ (inRows [1, 10, 20, 250]).inf.memoryInv ∧
    ∃ t, step (inRows [1, 10, 20, 250]) = .next t :=
  ⟨⟨by decide, by decide, by decide⟩, by decide, next_spec (by decide +kernel)⟩
theorem witness_FaultsOfInfArePrecise :
    (onBytes .blkhdr [6]).inf.controlInv ∧ (onBytes .blkhdr [6]).inf.phase.running = true ∧
    ∃ t, infTurn (onBytes .blkhdr [6]) = .next t ∧ (t.inf.phase == .fault) = true :=
  ⟨by decide, rfl, ends_spec (by decide +kernel)⟩
theorem witness_FaultsOfDefArePrecise :
    (inRows [9]).dfl.dphase = .row ∧ ∃ t, dflTurn (inRows [9]) = .next t ∧ (t.dfl.dphase == .fault) = true :=
  ⟨rfl, ends_spec (by decide +kernel)⟩

/-- All three units in `FAULT`. -/
def allFaulted : State :=
  (crcFaulted.onInf fun u => { u with phase := .fault, flags := .faulted, err := 16 }).onDfl fun u =>
    { u with dphase := .fault, flags := .faulted, err := 19 }

theorem witness_OnlyResetLeavesFault :
    allFaulted.inf.controlInv ∧ allFaulted.inf.phase = .fault ∧ allFaulted.crc.cstate = .fault ∧
    allFaulted.dfl.flagsInv ∧ allFaulted.dfl.dphase = .fault ∧ (∃ t, step allFaulted = .next t) ∧
    ∃ t, step (State.turn (.host (.write .inf 0 2)) allFaulted) = .next t :=
  ⟨by decide, rfl, rfl, by decide, rfl, next_spec (by decide +kernel), next_spec (by decide +kernel)⟩

/-- INF and DEF both running. -/
def bothRunning : State := { afterA [0x89] with dfl := (inRows [1, 10, 20, 250]).dfl }

theorem witness_UnitsShareNoState :
    (∃ t, infTurn bothRunning = .next t) ∧ (∃ r, dflTurn bothRunning = .next r) ∧
    ∃ t, hostWrite .crc 4 0x61 accumulating = .next t :=
  ⟨next_spec (by decide +kernel), next_spec (by decide +kernel), next_spec (by decide +kernel)⟩
theorem witness_OutputIsOnlyAppended :
    running.inf.controlInv ∧ running.inf.tablesInv ∧ running.inf.phase.running = true :=
  ⟨by decide, ⟨by decide, by decide +kernel⟩, rfl⟩

/-- INF at the trailer of "a" (00 62 00 62), the last four bytes of `IN`, one byte expected. -/
def trailerA : State :=
  (afterA [0, 0x62, 0, 0x62]).onInf fun u => { u with phase := .trailer, expectLen := 1 }

theorem witness_ACompletedDecodeIsVerified :
    trailerA.inf.controlInv ∧ trailerA.inf.adlerInv ∧ trailerA.inf.phase.running = true ∧
    ∃ t, infTurn trailerA = .next t ∧ (t.inf.phase == .done) = true :=
  ⟨by decide, by decide, rfl, ends_spec (by decide +kernel)⟩
theorem witness_EveryInfRunEnds :
    (onBytes .zhdr []).inf.controlInv ∧ (onBytes .zhdr []).inf.tablesInv ∧ (onBytes .zhdr []).inf.phase.running = true :=
  ⟨by decide, ⟨by decide, by decide +kernel⟩, rfl⟩
theorem witness_EveryDefRunEnds :
    (configured 1 1).dfl.flags.busy = false ∧ (configured 1 1).dfl.flags.fault = false ∧
    (configured 1 1).dfl.dphase ≠ .row ∧ ∃ t, exec .defStart (configured 1 1) = .next t ∧ (t.dfl.dphase == .row) = true :=
  ⟨rfl, rfl, by decide, ends_spec (by decide)⟩

/-- The same machine after another run and other resets: stale output beyond `out_count`, a stale window byte. -/
def afterAStale : State :=
  (afterA [0x89]).onInf fun u => { u with out := [(0, 0x61), (1, 7)], win := [(0, 0x61), (5, 9)], epoch := 3, errInfo := 4 }

theorem witness_InfRunsAreIndependent :
    (afterA [0x89]).params = afterAStale.params ∧ Inf.agree (afterA [0x89]).inf afterAStale.inf ∧
    (afterA [0x89]).inf.windowInv ∧ afterAStale.inf.windowInv ∧
    (∃ t, infTurn (afterA [0x89]) = .next t) ∧ ∃ t, infTurn afterAStale = .next t :=
  ⟨rfl, ⟨rfl, by decide, by decide, by decide, by decide⟩, by decide, by decide, next_spec (by decide +kernel),
    next_spec (by decide +kernel)⟩

/-- INF idle after reset, and INF done after an earlier run with another number of resets, both given the stream 78 9C. -/
def idleLoaded : State := State.reset.onInf fun u => { u with input := [(0, 0x78), (1, 0x9C)], inLen := 2, expectLen := 1 }
def doneLoaded : State :=
  doneA.onInf fun u => { u with input := [(0, 0x78), (1, 0x9C)], inLen := 2, expectLen := 1, epoch := 3 }

theorem witness_InfRunsAreIndependent_start :
    idleLoaded.params = doneLoaded.params ∧ idleLoaded.inf.flags ≠ doneLoaded.inf.flags ∧
    idleLoaded.inf.flags.busy = false ∧ idleLoaded.inf.flags.fault = false ∧
    doneLoaded.inf.flags.busy = false ∧ doneLoaded.inf.flags.fault = false ∧
    idleLoaded.inf.inLen = doneLoaded.inf.inLen ∧ idleLoaded.inf.expectLen = doneLoaded.inf.expectLen ∧
    (∀ a < idleLoaded.inf.inLen, idleLoaded.inf.inByte a = doneLoaded.inf.inByte a) ∧ idleLoaded.infFits ∧
    (∃ t, exec .infStart idleLoaded = .next t ∧ (infTurns 2 t).isSome = true) ∧
    ∃ t, exec .infStart doneLoaded = .next t ∧ (infTurns 2 t).isSome = true := by
  refine ⟨rfl, by decide, rfl, rfl, rfl, rfl, rfl, rfl, ?_, fun _ h => (by cases h), ends_spec (by decide +kernel),
    ends_spec (by decide +kernel)⟩
  intro a h
  have : a = 0 ∨ a = 1 := by have : a < 2 := h; omega
  rcases this with rfl | rfl <;> rfl

/-- A DEF with stale bytes in `RAW` and `cur`. -/
def staleRows : State :=
  (inRows [1, 10, 20, 250]).onDfl fun u => { u with raw := [(9, 9)], cur := [(3, 5)], epoch := 2 }

theorem witness_DefRunsAreIndependent :
    Dfl.agree (inRows [1, 10, 20, 250]).dfl staleRows.dfl ∧ (inRows [1, 10, 20, 250]).dfl.inv ∧ staleRows.dfl.inv ∧
    (∃ t, dflTurn (inRows [1, 10, 20, 250]) = .next t) ∧ ∃ t, dflTurn staleRows = .next t :=
  ⟨⟨rfl, by decide, by decide, by decide, by decide⟩, ⟨by decide, by decide, by decide⟩, ⟨by decide, by decide, by decide⟩,
    next_spec (by decide +kernel), next_spec (by decide +kernel)⟩
/-- DEF idle after reset, and DEF done with stale output and a stale row, both with one sub-image and no input. -/
def idleDef : State := configured 8 7
def doneDef : State :=
  (configured 8 7).onDfl fun u => { u with dphase := .done, flags := .ended, raw := [(0, 1)], cur := [(0, 1)], opos := 1, ipos := 2 }

theorem witness_DefRunsAreIndependent_start :
    idleDef.params = doneDef.params ∧ idleDef.dfl.flags ≠ doneDef.dfl.flags ∧
    idleDef.dfl.flags.busy = false ∧ idleDef.dfl.flags.fault = false ∧
    doneDef.dfl.flags.busy = false ∧ doneDef.dfl.flags.fault = false ∧
    (∀ a < idleDef.dfl.inLen, idleDef.dfl.dinByte a = doneDef.dfl.dinByte a) ∧
    1 ≤ idleDef.dfl.bpp.toNat ∧ idleDef.dfl.bpp.toNat ≤ 8 ∧ 1 ≤ idleDef.dfl.npass.toNat ∧ idleDef.dfl.npass.toNat ≤ 7 ∧
    idleDef.dflFits ∧ idleDef.dfl.inv ∧ doneDef.dfl.inv ∧
    (∃ t, exec .defStart idleDef = .next t ∧ (dflTurns 2 t).isSome = true) ∧
    ∃ t, exec .defStart doneDef = .next t ∧ (dflTurns 2 t).isSome = true :=
  ⟨rfl, by decide, rfl, rfl, rfl, rfl, fun _ _ => rfl, by decide, by decide, by decide, by decide, fun _ h => (by cases h),
    ⟨by decide, by decide, by decide⟩, ⟨by decide, by decide, by decide⟩, ends_spec (by decide +kernel),
    ends_spec (by decide +kernel)⟩

end Sys2Proof.Tests
end

/-! PROOFS. What a decoded Huffman-coded element takes from its bits, and INF's stream after bits were consumed. -/

namespace Sys2Proof

/-! ### What a decoded Huffman-coded element is, and what it takes from its bits (30_encoding.md R96 to R104) -/

/-- A decoded element is that of a symbol which has a code, and what is left is the bits after the code and extra bits. -/
theorem decodeCoded_ok {lens : List CodeLen} {extra : Nat → Nat} {mk : Nat → Nat → Option Instr} {short : Nat → Reject}
    {bits rest : List Bool} {i : Instr} (h : decodeCoded lens extra mk short bits = .ok (i, rest)) :
    ∃ s x, mk s x = some i ∧ lens.getD s 0 ≠ 0 ∧ (lens.getD s 0).toNat + extra s ≤ bits.length ∧
      rest = bits.drop ((lens.getD s 0).toNat + extra s) := by
  unfold decodeCoded at h
  split at h
  · cases h
  · rename_i s after hs
    obtain ⟨hcode, -, h0⟩ := huff_ok lens bits after s hs
    split at h
    · cases h
    · rename_i x after' hx
      split at h
      · rename_i i' hmk
        cases h
        have hlen : ¬ after.length < extra s := fun hlt => by
          rw [(takeBits_eq_none_iff _ _).2 hlt] at hx; cases hx
        have hdrop : after = bits.drop (lens.getD s 0).toNat := by
          rw [hcode, List.drop_left' (length_codeBits lens s)]
        refine ⟨s, x, hmk, h0, ?_, ?_⟩
        · rw [hcode, List.length_append, length_codeBits]; omega
        · rw [(takeBits_rest _ _ _ _ hx).1, hdrop, List.drop_drop]
      · cases h

/-- The literal/length element of a symbol carries that symbol. -/
theorem mkSym_coded {s x : Nat} {i : Instr} (h : mkSym s x = some i) :
    i.coded = some ⟨.literalLength, s, lenExtra s, x % 2 ^ lenExtra s⟩ := by
  unfold mkSym at h
  split at h
  · rename_i hs
    cases h
    have hx : lenExtra s = 0 := if_pos (by omega)
    simp only [Instr.coded, BitVec.toNat_ofNat, hx, Nat.pow_zero, Nat.mod_one, Nat.mod_eq_of_lt (show s < 2 ^ 8 from hs)]
  · split at h <;> cases h <;> simp [Instr.coded, lenExtra, Nat.mod_one]

/-- The distance element of a symbol carries that symbol. -/
theorem mkDist_coded {t x : Nat} {i : Instr} (h : mkDist t x = some i) :
    i.coded = some ⟨.distance, t, distExtra t, x % 2 ^ distExtra t⟩ := by
  unfold mkDist at h
  split at h <;> cases h <;> simp [Instr.coded, distExtra, Nat.mod_one]

end Sys2Proof

namespace Sys2Proof.Machine

open Sys2Proof

/-! ### The stream after bits were consumed (20_memory.md R61, R66) -/

@[simp] theorem Inf.length_bitsFrom (u : Inf) (k n : Nat) : (u.bitsFrom k n).length = n := by
  induction n generalizing k with
  | zero => rfl
  | succ n ih => simp [Inf.bitsFrom, ih]

@[simp] theorem Inf.length_stream (u : Inf) : u.stream.length = 8 * u.inLen - u.bitpos := Inf.length_bitsFrom ..

/-- The bits after the first `m`. -/
theorem Inf.bitsFrom_drop (u : Inf) (k m n : Nat) : (u.bitsFrom k n).drop m = u.bitsFrom (k + m) (n - m) := by
  induction m generalizing k n with
  | zero => rfl
  | succ m ih =>
    cases n with
    | zero => simp [Inf.bitsFrom]
    | succ n =>
      rw [Inf.bitsFrom, List.drop_succ_cons, ih, Nat.add_sub_add_right, Nat.add_right_comm, Nat.add_assoc]

/-- Stream bits depend on the input alone. -/
theorem Inf.bitsFrom_congr {u v : Inf} (hin : v.input = u.input) (hep : v.epoch = u.epoch) (k n : Nat) :
    v.bitsFrom k n = u.bitsFrom k n := by
  induction n generalizing k with
  | zero => rfl
  | succ n ih => simp only [Inf.bitsFrom, Inf.bitAt, Inf.inByte, hin, hep, ih]

/-- With the cursor `n` bits further on, the stream is the bits after the first `n`. -/
theorem Inf.stream_drop {u v : Inf} {n : Nat} (hin : v.input = u.input) (hep : v.epoch = u.epoch) (hl : v.inLen = u.inLen)
    (hb : v.bitpos = u.bitpos + n) : v.stream = u.stream.drop n := by
  rw [Inf.stream, Inf.stream, hl, hb, Inf.bitsFrom_congr hin hep, Inf.bitsFrom_drop, Nat.sub_sub]

end Sys2Proof.Machine

/-! PROOFS. Each agent's turn runs the instruction its bits decode to; O8. -/

namespace Sys2Proof.Machine

open Sys2Proof

/-! ### INF, DEF and the host -/

/-- INF runs the instruction its bits decode to. -/
theorem infFetchRun_of_decode {s : State} {c : Ctx} {i : Instr} {rest : List Bool} (hc : s.inf.ctx = some c)
    (hd : decode c s.inf.stream = .ok (i, rest)) : infFetchRun s = exec i s := by
  unfold infFetchRun
  rw [hc]
  dsimp only
  rw [hd]

/-- INF's turn ends with the first instruction when that hands no match length over. -/
theorem infTurn_of_whole {s : State} (h : ∀ t, infFetchRun s = .next t → t.inf.matchLen = none) :
    infTurn s = infFetchRun s := by
  unfold infTurn
  split
  · rename_i t ht
    rw [h t ht, ht]; rfl
  · rfl

/-- INF's turn runs the second half of a match after the first. -/
theorem infTurn_of_half {s t : State} (h : infFetchRun s = .next t) (hm : t.inf.matchLen ≠ none) :
    infTurn s = infFetchRun t := by
  unfold infTurn
  rw [h]
  exact if_pos (Option.isSome_iff_ne_none.2 hm)

/-- With an event at the head of the agenda a step is that event's turn on the state with the event taken off. -/
theorem step_of_agenda {s : State} {e : Event} {rest : List Event} (h : s.agenda = e :: rest) :
    step s = guardWidth (eventTurn e { s with agenda := rest }) := by
  unfold step
  rw [h]

/-- DEF in `ROW` runs the instruction its byte, or the end of its sub-images, decodes to. -/
theorem dflTurn_of_decode {s : State} {i : Instr} {rest : List Bool} (hr : s.dfl.dphase = .row)
    (hp : s.dfl.pass ≤ s.dfl.npass.toNat)
    (hd : decode (if s.dfl.pass < s.dfl.npass.toNat then .row else .defEnd) s.dfl.stream = .ok (i, rest)) :
    dflTurn s = exec i s := by
  unfold dflTurn
  rw [if_neg (not_not_intro hr), if_neg (Nat.not_lt.2 hp), hd]

/-- A host write runs the command it decodes to. -/
theorem hostWrite_of_decode {s : State} {u : UnitId} {n v : Nat} {i : Instr} {rest : List Bool}
    (hd : decode (.reg u n) (fieldBits 32 v) = .ok (i, rest)) : hostWrite u n v s = exec i s := by
  unfold hostWrite
  rw [hd]

/-- Settles O8: the head of the agenda takes its turn (`step_of_agenda`), and the turn of each agent runs what it decodes. -/
theorem stepRunsTheDecodedInstruction : Obligations.StepRunsTheDecodedInstruction := by
  unfold Obligations.StepRunsTheDecodedInstruction
  refine ⟨fun s rest c i bits ha hc hd => ?_, fun s rest i bits ha hr hp hd => ?_, fun s rest u n v i bits ha hd => ?_⟩
  · have hrun : infFetchRun { s with agenda := rest } = exec i { s with agenda := rest } := infFetchRun_of_decode hc hd
    rw [step_of_agenda ha]
    refine ⟨fun hwhole => ?_, fun t c' j bits' ht hm hc' hd' => ?_⟩
    · exact congrArg guardWidth ((infTurn_of_whole (hrun ▸ hwhole)).trans hrun)
    · exact congrArg guardWidth ((infTurn_of_half (hrun.trans ht) hm).trans (infFetchRun_of_decode hc' hd'))
  · rw [step_of_agenda ha]
    exact congrArg guardWidth (dflTurn_of_decode (s := { s with agenda := rest }) hr hp hd)
  · rw [step_of_agenda ha]
    exact congrArg guardWidth (hostWrite_of_decode hd)

end Sys2Proof.Machine

/-! PROOFS. START of a run that does not fit a finite `CNT_W`; O60. -/

namespace Sys2Proof.Machine

open Sys2Proof

/-! ### Runs that do not fit a finite `CNT_W` (10_state.md R24) -/

/-- A write of `START` to INF of a run that does not fit changes nothing. -/
theorem hostWrite_infStart_of_not_fits {s : State} (h : ¬ s.infFits) : hostWrite .inf 0 1 s = .next s := by
  rw [hostWrite_eq]
  obtain ⟨-, -, hfits, -⟩ | ⟨-, hex⟩ := execInfStart_cases s
  · exact absurd hfits h
  · exact hex

/-- A write of `START` to DEF of a run that does not fit changes nothing. -/
theorem hostWrite_defStart_of_not_fits {s : State} (h : ¬ s.dflFits) : hostWrite .dfl 0 1 s = .next s := by
  rw [hostWrite_eq]
  obtain ⟨-, -, hfits, -⟩ | ⟨-, hex⟩ := execDefStart_cases s
  · exact absurd hfits h
  · exact hex

/-- A length of INF that reaches `2 ^ CNT_W` does not fit. -/
theorem State.not_infFits {s : State} {w : Nat} (hw : s.params.cntW = some w)
    (h : 2 ^ w ≤ 8 * s.inf.inLen ∨ 2 ^ w ≤ s.inf.expectLen) : ¬ s.infFits := by
  intro hf
  obtain ⟨h1, h2⟩ := hf w hw
  omega

/-- A length of DEF that reaches `2 ^ CNT_W` does not fit. -/
theorem State.not_dflFits {s : State} {w : Nat} (hw : s.params.cntW = some w)
    (h : 2 ^ w ≤ s.dfl.inLen ∨
      ∃ k < s.dfl.npass.toNat, 2 ^ w ≤ s.dfl.rowBytes.getD k 0 ∨ 2 ^ w ≤ s.dfl.rows.getD k 0) : ¬ s.dflFits := by
  intro hf
  obtain ⟨h1, h2⟩ := hf w hw
  obtain hin | ⟨k, hk, hrow⟩ := h
  · omega
  · have := h2 k hk
    omega

/-- The length registers of INF keep the value written whole (log entry 8). -/
theorem hostWrite_inf_length {s : State} (hb : s.inf.flags.busy = false) (v : Nat) :
    hostWrite .inf 4 v s = .next (s.onInf fun u => { u with inLen := v }) ∧
    hostWrite .inf 5 v s = .next (s.onInf fun u => { u with expectLen := v }) := by
  constructor <;> rw [hostWrite_eq] <;> simp [mkCommand, State.writeConfig, State.onInf, Inf.writeConfig, hb]

/-- `DEF_IN_LEN` keeps the value written whole (log entry 8). -/
theorem hostWrite_dfl_inLen {s : State} (hb : s.dfl.flags.busy = false) (v : Nat) :
    hostWrite .dfl 4 v s = .next (s.onDfl fun u => { u with inLen := v }) := by
  rw [hostWrite_eq]
  simp [mkCommand, State.writeConfig, State.onDfl, Dfl.writeConfig, hb]

/-- Settles O60: `START` of a run that does not fit changes nothing, and a length that reaches `2 ^ CNT_W` does not fit,
also one just written. -/
theorem runsThatDoNotFitAreNotStarted : Obligations.RunsThatDoNotFitAreNotStarted := by
  unfold Obligations.RunsThatDoNotFitAreNotStarted
  intro s w hw
  refine ⟨fun h => hostWrite_infStart_of_not_fits (State.not_infFits hw h), fun n v hb h => ?_,
    fun h => hostWrite_defStart_of_not_fits (State.not_dflFits hw h), fun v hb h => ?_⟩
  · obtain ⟨rfl, hv⟩ | ⟨rfl, hv⟩ := h
    · exact ⟨_, (hostWrite_inf_length hb v).1, hostWrite_infStart_of_not_fits (State.not_infFits hw (.inl hv))⟩
    · exact ⟨_, (hostWrite_inf_length hb v).2, hostWrite_infStart_of_not_fits (State.not_infFits hw (.inr hv))⟩
  · exact ⟨_, hostWrite_dfl_inLen hb v, hostWrite_defStart_of_not_fits (State.not_dflFits hw (.inl h))⟩

end Sys2Proof.Machine

/-! PROOFS. A match as one turn of INF; O24. -/

namespace Sys2Proof.Machine

open Sys2Proof

/-! ### A match as one turn (42_symbols_lz77.md R191, R194 to R199) -/

/-- The bits a decoded symbol and its extra bits take are there, and the stream goes on after them. -/
theorem Inf.decodeCoded_stream {u : Inf} {lens : List CodeLen} {extra : Nat → Nat} {mk : Nat → Nat → Option Instr}
    {short : Nat → Reject} {a : Alphabet} {i : Instr} {rest : List Bool} {sym k x : Nat}
    (hmk : ∀ {s x i}, mk s x = some i → i.coded = some ⟨a, s, extra s, x % 2 ^ extra s⟩)
    (hd : decodeCoded lens extra mk short u.stream = .ok (i, rest)) (hi : i.coded = some ⟨a, sym, k, x⟩) :
    u.bitpos + ((lens.getD sym 0).toNat + extra sym) ≤ 8 * u.inLen ∧
    rest = u.stream.drop ((lens.getD sym 0).toNat + extra sym) := by
  obtain ⟨s, x', hsym, h0, hle, hrest⟩ := decodeCoded_ok hd
  obtain rfl : s = sym := by
    have h := (hmk hsym).symm.trans hi
    injection h with h
    injection h
  have hpos : (lens.getD s 0).toNat ≠ 0 := fun he => h0 (BitVec.eq_of_toNat_eq he)
  rw [Inf.length_stream] at hle
  exact ⟨by omega, hrest⟩

/-- The bits a decoded literal/length symbol takes are there. -/
theorem Inf.decode_sym_ok {u : Inf} {i : Instr} {rest : List Bool} {sym k x : Nat}
    (hd : decode (.sym u.llLen) u.stream = .ok (i, rest)) (hi : i.coded = some ⟨.literalLength, sym, k, x⟩) :
    u.bitpos + u.symBits sym ≤ 8 * u.inLen ∧ rest = u.stream.drop (u.symBits sym) :=
  Inf.decodeCoded_stream mkSym_coded hd hi

/-- The bits a decoded distance symbol takes are there. -/
theorem Inf.decode_dist_ok {u : Inf} {j : Instr} {rest : List Bool} {t k y : Nat}
    (hd : decode (.dist u.dLen) u.stream = .ok (j, rest)) (hj : j.coded = some ⟨.distance, t, k, y⟩) :
    u.bitpos + u.distBits t ≤ 8 * u.inLen ∧ rest = u.stream.drop (u.distBits t) :=
  Inf.decodeCoded_stream mkDist_coded hd hj

/-- INF between the two halves of a match: the `n` bits of the length half are consumed and the length `len` is handed
over (log entry 2). -/
def Inf.halfMatched (n len : Nat) (u : Inf) : Inf := { u.consumed n with matchLen := some len }

/-- A match is decoded and run as its length half, then its distance half on what that leaves. -/
theorem infTurn_match {s : State} {i j : Instr} {rest1 rest2 : List Bool} {sym t k1 k2 x y : Nat}
    (hph : s.inf.phase = .sym) (hm : s.inf.matchLen = none)
    (hd1 : decode (.sym s.inf.llLen) s.inf.stream = .ok (i, rest1)) (hi : i.coded = some ⟨.literalLength, sym, k1, x⟩)
    (hlo : 257 ≤ sym) (hhi : sym ≤ 285)
    (hd2 : decode (.dist s.inf.dLen) rest1 = .ok (j, rest2)) (hj : j.coded = some ⟨.distance, t, k2, y⟩) :
    s.inf.bitpos + s.inf.symBits sym + s.inf.distBits t ≤ 8 * s.inf.inLen ∧
    s.inf.stream.length - rest2.length = s.inf.symBits sym + s.inf.distBits t ∧
    infTurn s = .next (({ s with inf := s.inf.halfMatched (s.inf.symBits sym) (lenBase sym + x) } : State).onInf
      (if t < 30 then Inf.distanceHalf t y else Inf.reservedDist t)) := by
  obtain ⟨hfit1, hrest1⟩ := Inf.decode_sym_ok hd1 hi
  obtain ⟨-, -, -, hex1⟩ := exec_literalLength i sym k1 x s hi
  rw [if_neg (by omega), if_neg (by omega), if_pos hhi] at hex1
  have hctx : s.inf.ctx = some (.sym s.inf.llLen) := by unfold Inf.ctx; rw [hm, hph]; rfl
  have hrun1 : infFetchRun s = .next { s with inf := s.inf.halfMatched (s.inf.symBits sym) (lenBase sym + x) } :=
    ((infFetchRun_of_decode hctx hd1).trans hex1).trans
      (congrArg Host.Outcome.next (onInf_take_of_le s (s.inf.symBits sym) _ hfit1))
  have hstream : (s.inf.halfMatched (s.inf.symBits sym) (lenBase sym + x)).stream = rest1 :=
    hrest1 ▸ Inf.stream_drop rfl rfl rfl rfl
  obtain ⟨hfit2, hrest2⟩ := Inf.decode_dist_ok (u := s.inf.halfMatched (s.inf.symBits sym) (lenBase sym + x))
    (hstream ▸ hd2) hj
  replace hfit2 : s.inf.bitpos + s.inf.symBits sym + s.inf.distBits t ≤ 8 * s.inf.inLen := hfit2
  refine ⟨hfit2, ?_, ?_⟩
  · have hb : (s.inf.halfMatched (s.inf.symBits sym) (lenBase sym + x)).distBits t = s.inf.distBits t := rfl
    rw [hrest2, hb, hstream, hrest1, List.length_drop, List.length_drop, Inf.length_stream]
    omega
  · rw [infTurn_of_half hrun1 (Option.some_ne_none _), infFetchRun_of_decode rfl (hstream.symm ▸ hd2)]
    exact (exec_distance j t k2 y _ hj).2.2.2

/-- A distance is 1 to 32768 (R99). -/
theorem distBase_bounds {t y : Nat} (ht : t < 30) (hy : y < 2 ^ distExtra t) :
    1 ≤ distBase t + y ∧ distBase t + y ≤ wsize := by
  have h : ∀ t < 30, 1 ≤ distBase t ∧ distBase t + 2 ^ distExtra t ≤ wsize + 1 := by decide
  obtain ⟨h1, h2⟩ := h t ht
  omega

/-- Copying a match neither reads nor writes the cursor and the length handed over. -/
theorem Inf.copyMatch_cursor (m dist start b : Nat) (l : Option Nat) (u : Inf) :
    Inf.copyMatch m dist { u with elemStart := start, bitpos := b, matchLen := l } =
      { u.copyMatch m dist with elemStart := start, bitpos := b, matchLen := l } := by
  induction m generalizing u with
  | zero => rfl
  | succ m ih => exact ih (u.emit (u.winByte ((u.outCount - dist) % wsize)))

section DistanceHalf

variable {u : Inf} {n len t y : Nat} (hfit : u.bitpos + n + u.distBits t ≤ 8 * u.inLen)

include hfit

/-- The distance half copies the match, if the distance is within the output, and the match is then one element of INF. -/
theorem Inf.distanceHalf_halfMatched (hm : u.matchLen = none) (hdist : distBase t + y ≤ u.outCount) :
    Inf.distanceHalf t y (u.halfMatched n len) =
      (u.copyMatch len (distBase t + y)).consumed (n + u.distBits t) := by
  have hb : (u.copyMatch len (distBase t + y)).bitpos = u.bitpos := by rw [(Inf.copyMatch_regs ..).2]
  have hl : (u.copyMatch len (distBase t + y)).matchLen = none := by rw [(Inf.copyMatch_regs ..).2, hm]
  calc Inf.distanceHalf t y (u.halfMatched n len)
      = { Inf.copyMatch len (distBase t + y) ((u.halfMatched n len).advance (u.distBits t)) with matchLen := none } :=
        (Inf.take_of_le _ _ (u.halfMatched n len) hfit).trans (if_neg (Nat.not_lt.2 hdist))
    _ = { u.copyMatch len (distBase t + y) with
          elemStart := u.bitpos, bitpos := u.bitpos + n + u.distBits t, matchLen := none } :=
        congrArg (fun v : Inf => { v with matchLen := none })
          (Inf.copyMatch_cursor len _ u.bitpos (u.bitpos + n + u.distBits t) (some len) u)
    _ = (u.copyMatch len (distBase t + y)).consumed (n + u.distBits t) := by
        rw [Inf.consumed, hb, ← Nat.add_assoc, ← hl]

/-- A reserved distance symbol, or a distance beyond the output, faults at the first bit of the match. -/
theorem Inf.distanceHalf_faults (hbad : 30 ≤ t ∨ u.outCount < distBase t + y) :
    (if t < 30 then Inf.distanceHalf t y else Inf.reservedDist t) (u.halfMatched n len) = u.stopped 16 := by
  split
  · exact (Inf.take_of_le _ _ (u.halfMatched n len) hfit).trans (if_pos (show u.outCount < distBase t + y by omega))
  · exact Inf.take_of_le _ _ (u.halfMatched n len) hfit

end DistanceHalf

/-- Settles O24: the two halves run in one turn (`infTurn_match`), the copy is the cyclic one (`Inf.copyMatch_emitted`), and a
fault in the distance half is one at the first bit of the match. -/
theorem matchIsOneStep : Obligations.MatchIsOneStep := by
  unfold Obligations.MatchIsOneStep
  intro s i j rest1 rest2 sym t k1 k2 x y hph hm hwin hd1 hi hlo hhi hd2 hj
  obtain ⟨hfit, hlen, hturn⟩ := infTurn_match hph hm hd1 hi hlo hhi hd2 hj
  obtain ⟨-, hk2, hy, -⟩ := exec_distance j t k2 y s hj
  rw [hturn]
  refine ⟨fun ht hdist => ?_, fun hbad => ?_⟩
  · obtain ⟨hpos, hle⟩ := distBase_bounds ht (hk2 ▸ hy)
    have hcopy := Inf.copyMatch_emitted s.inf s.inf _ 0 (lenBase sym + x) hpos hle hdist hwin (Inf.emitted_nil s.inf)
    rw [Nat.zero_add] at hcopy
    refine ⟨_, hcopy, ?_⟩
    rw [hlen, if_pos ht, State.onInf, Inf.distanceHalf_halfMatched hfit hm hdist]
  · rw [State.onInf, Inf.distanceHalf_faults hfit hbad]

end Sys2Proof.Machine

/-! PROOFS. A turn of DEF as one function of DEF, and two DEFs that agree; O59. -/

namespace Sys2Proof.Machine

open Sys2Proof

/-! ### DEF's turn as a function of DEF (44_defilter.md R243, R250, R251) -/

/-- What DEF does with a filter-type byte. -/
def Dfl.rowStep (ft : Byte) (u : Dfl) : Dfl :=
  if ft.toNat < 5 then u.scanline ft (pred ft.toNat) else u.invalidFilter ft

/-- What a turn does to DEF. -/
def Dfl.turn (u : Dfl) : Dfl :=
  if u.dphase ≠ .row then u
  else if u.pass < u.npass.toNat then
    if u.ipos < u.inLen then u.rowStep (u.dinByte u.ipos) else u.begin.raise .incompleteImageData
  else u.endStep

/-- The instruction of a filter-type byte is the row step of that byte. -/
theorem exec_mkRow (ft : Byte) (s : State) : exec (mkRow ft.toNat) s = .next (s.onDfl (Dfl.rowStep ft)) := by
  by_cases h : ft.toNat < 5
  · have hcases : ft = 0 ∨ ft = 1 ∨ ft = 2 ∨ ft = 3 ∨ ft = 4 := by bv_omega
    rcases hcases with rfl | rfl | rfl | rfl | rfl <;> rfl
  · have hmk : mkRow ft.toNat = .ftInvalid ft := by
      unfold mkRow
      split
      case h_6 => rw [BitVec.ofNat_toNat, BitVec.setWidth_eq]
      all_goals omega
    have hstep : Dfl.rowStep ft = Dfl.invalidFilter ft := by funext u; exact if_neg h
    rw [hmk, hstep]
    rfl

/-- A row decodes to the instruction of the byte at `ipos`, which must be there. -/
theorem Dfl.decode_row (u : Dfl) :
    decode .row u.stream =
      if u.ipos < u.inLen then .ok (mkRow (u.dinByte u.ipos).toNat, []) else .error .endOfInput := by
  unfold Dfl.stream
  split
  · have h := takeBits_fieldBits 8 (u.dinByte u.ipos).toNat []
    rw [List.append_nil, Nat.mod_eq_of_lt (u.dinByte u.ipos).isLt] at h
    unfold decode
    rw [h]
    rfl
  · rfl

/-- A turn of DEF is `Dfl.turn`, where a rule applies; nothing else of the machine changes (10_state.md R20). -/
theorem dflTurn_eq {s : State} (h : s.dfl.dphase = .row → s.dfl.pass ≤ s.dfl.npass.toNat) :
    dflTurn s = .next (s.onDfl Dfl.turn) := by
  by_cases hr : s.dfl.dphase = .row
  · by_cases hp : s.dfl.pass < s.dfl.npass.toNat
    · by_cases hi : s.dfl.ipos < s.dfl.inLen
      · have hd := Dfl.decode_row s.dfl
        rw [if_pos hi] at hd
        rw [dflTurn_of_decode hr (h hr) (by rw [if_pos hp]; exact hd), exec_mkRow]
        simp [State.onDfl, Dfl.turn, hr, hp, hi]
      · simp [dflTurn, State.onDfl, Dfl.turn, Dfl.decode_row, hr, hp, hi, Nat.not_lt.2 (h hr)]
    · rw [dflTurn_of_decode hr (h hr) (by rw [if_neg hp]; rfl)]
      show Host.Outcome.next (s.onDfl Dfl.endStep) = _
      simp [State.onDfl, Dfl.turn, hr, hp]
  · simp [dflTurn, State.onDfl, Dfl.turn, hr]

/-- A turn of DEF that answers a next state is `Dfl.turn`. -/
theorem eq_turn_of_dflTurn {s t : State} (h : dflTurn s = .next t) : t = s.onDfl Dfl.turn := by
  by_cases hp : s.dfl.dphase = .row → s.dfl.pass ≤ s.dfl.npass.toNat
  · rw [dflTurn_eq hp] at h
    exact (Host.Outcome.next.inj h).symm
  · obtain ⟨hr, hlt⟩ := Classical.not_imp.1 hp
    simp [dflTurn, hr, Nat.not_le.1 hlt] at h

/-! ### The row loop reads nothing but the row, the one above it and the input (R243) -/

/-- Two row buffers that agree on their first `n` bytes. -/
def rowsAgree (n : Nat) (m m' : Memory) : Prop := ∀ i < n, rowByte m i = rowByte m' i

/-- One reconstructed byte, on rows that agree so far. -/
theorem Dfl.rowValue_congr {pr : Nat → Nat → Nat → Nat} {u v : Dfl} {cur cur' : Memory} {n i : Nat}
    (hi : i < n) (hb : v.bpp = u.bpp) (hpos : 1 ≤ u.bpp.toNat) (hprev : rowsAgree n u.prev v.prev)
    (hdin : u.dinByte (u.ipos + 1 + i) = v.dinByte (v.ipos + 1 + i)) (hcur : rowsAgree i cur cur') :
    u.rowValue pr cur i = v.rowValue pr cur' i := by
  unfold Dfl.rowValue
  rw [hb, hdin, hprev i hi]
  dsimp only
  split
  · rw [hcur (i - u.bpp.toNat) (by omega), hprev (i - u.bpp.toNat) (by omega)]
  · rfl

/-- The row loop, on rows that agree so far; stale bytes of either `cur` are overwritten. -/
theorem Dfl.rebuild_congr {pr : Nat → Nat → Nat → Nat} {u v : Dfl} {n : Nat} (hb : v.bpp = u.bpp)
    (hpos : 1 ≤ u.bpp.toNat) (hprev : rowsAgree n u.prev v.prev)
    (hdin : ∀ i < n, u.dinByte (u.ipos + 1 + i) = v.dinByte (v.ipos + 1 + i)) (m i : Nat) (hn : i + m ≤ n)
    (cur cur' : Memory) (hw : Memory.wf (some 0) cur) (hw' : Memory.wf (some 0) cur') (hcur : rowsAgree i cur cur') :
    rowsAgree (i + m) (u.rebuild pr m i cur) (v.rebuild pr m i cur') := by
  induction m generalizing i cur cur' with
  | zero => exact hcur
  | succ m ih =>
    have hval := Dfl.rowValue_congr (pr := pr) (by omega) hb hpos hprev (hdin i (by omega)) hcur
    have hnext : rowsAgree (i + 1) (Memory.write (some 0) cur i (u.rowValue pr cur i))
        (Memory.write (some 0) cur' i (v.rowValue pr cur' i)) := by
      intro k hk
      rw [rowByte_write _ _ _ _ hw, rowByte_write _ _ _ _ hw', hval]
      split
      · rfl
      · exact hcur k (by omega)
    have := ih (i + 1) (by omega) _ _ (Memory.write_wf _ _ _ _ hw) (Memory.write_wf _ _ _ _ hw') hnext
    rwa [Nat.add_right_comm, Nat.add_assoc] at this

/-! ### A scanline in parts (R243, R242) -/

/-- The filter-type byte is read. -/
def Dfl.readFilter (ft : Byte) (u : Dfl) : Dfl := { u.begin with ftype := ft }

/-- The row `cur` is reconstructed: it goes to `RAW` and becomes the previous row. -/
def Dfl.rowDone (cur : Memory) (u : Dfl) : Dfl :=
  { u with
    cur := cur
    raw := copyRow cur u.opos (u.rowBytes.getD u.pass 0) 0 u.raw
    prev := cur
    ipos := u.ipos + 1 + u.rowBytes.getD u.pass 0
    opos := u.opos + u.rowBytes.getD u.pass 0
    row := u.row + 1 }

/-- The next sub-image is entered when the rows of this one are done. -/
def Dfl.nextRow (u : Dfl) : Dfl := if u.row = u.rows.getD u.pass 0 then u.enterPass (u.pass + 1) else u

/-- The row DEF reconstructs with a predictor. -/
def Dfl.rebuilt (pr : Nat → Nat → Nat → Nat) (u : Dfl) : Memory := u.rebuild pr (u.rowBytes.getD u.pass 0) 0 u.cur

/-- A byte of `RAW` after a row was copied there (R243). -/
theorem Dfl.rowDone_rawByte (u : Dfl) (cur : Memory) (j : Nat) :
    (u.rowDone cur).rawByte j =
      if u.opos ≤ j ∧ j < u.opos + u.rowBytes.getD u.pass 0 then rowByte cur (j - u.opos) else u.rawByte j := by
  unfold Dfl.rawByte Dfl.rowDone
  dsimp only
  rw [copyRow_find, Nat.add_zero]
  split <;> rfl

/-- A scanline faults on a short row, or reconstructs the row and goes on to the next (R243). -/
theorem Dfl.scanline_eq (ft : Byte) (pr : Nat → Nat → Nat → Nat) (u : Dfl) :
    u.scanline ft pr =
      if u.inLen < u.ipos + 1 + u.rowBytes.getD u.pass 0 then (u.readFilter ft).raise .incompleteImageData
      else ((u.readFilter ft).rowDone ((u.readFilter ft).rebuilt pr)).nextRow := rfl

/-- A run of DEF is done. -/
def Dfl.finish (u : Dfl) : Dfl := { u with dphase := .done, flags := .ended }

/-- The end step faults on bytes left over, or ends the run (R251). -/
theorem Dfl.endStep_eq (u : Dfl) :
    u.endStep = if u.ipos < u.inLen then u.begin.raise .excessImageData else u.begin.finish := rfl

/-! ### Each part keeps two DEFs in agreement -/

/-- Two DEFs that take the same branch agree if they do in each. -/
theorem Dfl.agree_ite {p : Prop} [Decidable p] {a a' b b' : Dfl} (ha : p → Dfl.agree a a') (hb : ¬ p → Dfl.agree b b') :
    Dfl.agree (if p then a else b) (if p then a' else b') := by
  by_cases h : p
  · rw [if_pos h, if_pos h]; exact ha h
  · rw [if_neg h, if_neg h]; exact hb h

section Agreement

variable {u v : Dfl} (h : Dfl.agree u v)

include h

/-- The registers that decide what DEF does next are the same. -/
theorem Dfl.agree_regs :
    v.dphase = u.dphase ∧ v.ipos = u.ipos ∧ v.opos = u.opos ∧ v.pass = u.pass ∧ v.row = u.row ∧ v.inLen = u.inLen ∧
    v.bpp = u.bpp ∧ v.npass = u.npass ∧ v.rowBytes = u.rowBytes ∧ v.rows = u.rows := by
  rw [h.1]
  exact ⟨rfl, rfl, rfl, rfl, rfl, rfl, rfl, rfl, rfl, rfl⟩

theorem Dfl.agree_raise (k : Kind) : Dfl.agree (u.raise k) (v.raise k) := by
  obtain ⟨hregs, -, hbytes⟩ := h
  have hs : u.elemStart = v.elemStart := by rw [hregs]
  exact ⟨by rw [hregs]; rfl, fun _ => ⟨rfl, hs⟩, hbytes⟩

theorem Dfl.agree_begin : Dfl.agree u.begin v.begin := by
  obtain ⟨hregs, hrest⟩ := h
  exact ⟨by rw [hregs]; rfl, hrest⟩

theorem Dfl.agree_readFilter (ft : Byte) : Dfl.agree (u.readFilter ft) (v.readFilter ft) := by
  obtain ⟨hregs, hrest⟩ := h
  exact ⟨by rw [hregs]; rfl, hrest⟩

theorem Dfl.agree_finish : Dfl.agree u.finish v.finish := by
  obtain ⟨hregs, -, hbytes⟩ := h
  exact ⟨by rw [hregs]; rfl, nofun, hbytes⟩

theorem Dfl.agree_endStep : Dfl.agree u.endStep v.endStep := by
  obtain ⟨-, hi, -, -, -, hl, -⟩ := Dfl.agree_regs h
  rw [Dfl.endStep_eq, Dfl.endStep_eq, hi, hl]
  exact Dfl.agree_ite (fun _ => Dfl.agree_raise (Dfl.agree_begin h) _) fun _ => Dfl.agree_finish (Dfl.agree_begin h)

/-- A reconstructed row keeps agreement when the two rows agree: it is what goes to `RAW` and to `prev`. -/
theorem Dfl.agree_rowDone {cur cur' : Memory} (hcur : rowsAgree (u.rowBytes.getD u.pass 0) cur cur') :
    Dfl.agree (u.rowDone cur) (v.rowDone cur') := by
  obtain ⟨-, -, ho, hp, -, -, -, -, hrb, -⟩ := Dfl.agree_regs h
  obtain ⟨hregs, herr, hdin, hraw, -⟩ := h
  refine ⟨by rw [hregs]; rfl, herr, hdin, fun j hj => ?_, hcur⟩
  replace hj : j < u.opos + u.rowBytes.getD u.pass 0 := hj
  rw [Dfl.rowDone_rawByte, Dfl.rowDone_rawByte, ho, hp, hrb]
  split
  · exact hcur _ (by omega)
  · exact hraw j (by omega)

theorem Dfl.agree_enterPass (p : Nat) : Dfl.agree (u.enterPass p) (v.enterPass p) := by
  obtain ⟨-, -, -, -, -, -, -, hn, hrb, hrs⟩ := Dfl.agree_regs h
  obtain ⟨hregs, herr, hdin, hraw, -⟩ := h
  refine ⟨?_, herr, hdin, hraw, fun _ _ => rfl⟩
  rw [Dfl.enterPass, Dfl.nextPass_congr hrb hrs hn p, hregs]
  rfl

theorem Dfl.agree_nextRow : Dfl.agree u.nextRow v.nextRow := by
  obtain ⟨-, -, -, hp, hr, -, -, -, -, hrs⟩ := Dfl.agree_regs h
  rw [Dfl.nextRow, Dfl.nextRow, hp, hr, hrs]
  exact Dfl.agree_ite (fun _ => Dfl.agree_enterPass h _) fun _ => h

end Agreement

/-! ### A turn keeps two DEFs in agreement -/

/-- What the row loop needs of DEF: `cur` in canonical form, and in `ROW` a filter distance of at least 1 (R241). -/
def Dfl.rowReady (u : Dfl) : Prop := Memory.wf (some 0) u.cur ∧ (u.dphase = .row → 1 ≤ u.bpp.toNat)

/-- A legal DEF is ready for the row loop. -/
theorem Dfl.rowReady_of_inv {u : Dfl} (h : u.inv) : u.rowReady := by
  obtain ⟨-, ⟨-, -, -, hrun⟩, -, -, -, hcur, -⟩ := h
  exact ⟨hcur, fun hr => ((Dfl.configLegal_iff u).1 (hrun hr).1).1.1⟩

/-- A scanline leaves `cur` in canonical form, and the filter distance as it was. -/
theorem Dfl.scanline_rowReady {u : Dfl} (h : u.rowReady) (ft : Byte) (pr : Nat → Nat → Nat → Nat) :
    (u.scanline ft pr).rowReady := by
  obtain ⟨hcur, hbpp⟩ := h
  have hrow : Memory.wf (some 0) ((u.readFilter ft).rebuilt pr) := Dfl.rebuild_wf pr _ _ 0 u.cur hcur
  rw [Dfl.scanline_eq]
  split
  · exact ⟨hcur, nofun⟩
  · unfold Dfl.nextRow
    split <;> exact ⟨hrow, hbpp⟩

/-- Every turn keeps DEF ready for the row loop. -/
theorem Dfl.turn_rowReady {u : Dfl} (h : u.rowReady) : u.turn.rowReady := by
  unfold Dfl.turn
  split
  · exact h
  · split
    · split
      · unfold Dfl.rowStep
        split
        · exact Dfl.scanline_rowReady h _ _
        · exact ⟨h.1, nofun⟩
      · exact ⟨h.1, nofun⟩
    · rw [Dfl.endStep_eq]
      split <;> exact ⟨h.1, nofun⟩

/-- A scanline keeps agreement: its row is made of input bytes, `prev` and bytes of `cur` already rewritten. -/
theorem Dfl.agree_scanline {u v : Dfl} (h : Dfl.agree u v) (hpos : 1 ≤ u.bpp.toNat) (hw : Memory.wf (some 0) u.cur)
    (hw' : Memory.wf (some 0) v.cur) (ft : Byte) (pr : Nat → Nat → Nat → Nat) :
    Dfl.agree (u.scanline ft pr) (v.scanline ft pr) := by
  obtain ⟨-, hi, -, hp, -, hl, hb, -, hrb, -⟩ := Dfl.agree_regs h
  have hf := Dfl.agree_readFilter h ft
  rw [Dfl.scanline_eq, Dfl.scanline_eq, hi, hp, hl, hrb]
  refine Dfl.agree_ite (fun _ => Dfl.agree_raise hf _) fun hfit => Dfl.agree_nextRow (Dfl.agree_rowDone hf ?_)
  obtain ⟨-, -, hdin, -, hprev⟩ := h
  have hx : ∀ i < u.rowBytes.getD u.pass 0,
      (u.readFilter ft).dinByte (u.ipos + 1 + i) = (v.readFilter ft).dinByte (v.ipos + 1 + i) := fun i hlt => by
    rw [hi]; exact hdin _ (by omega)
  have hrow := Dfl.rebuild_congr (pr := pr) (u := u.readFilter ft) (v := v.readFilter ft) hb hpos hprev hx
    (u.rowBytes.getD u.pass 0) 0 (by omega) u.cur v.cur hw hw' (fun i hlt => absurd hlt (Nat.not_lt_zero i))
  have hn : (v.readFilter ft).rowBytes.getD (v.readFilter ft).pass 0 = u.rowBytes.getD u.pass 0 := by
    show v.rowBytes.getD v.pass 0 = _
    rw [hp, hrb]
  rw [Nat.zero_add] at hrow
  rw [Dfl.rebuilt, Dfl.rebuilt, hn]
  exact hrow

/-- One turn of each: two DEFs that agree still agree, whatever stale bytes `RAW` and `cur` hold. -/
theorem Dfl.agree_turn {u v : Dfl} (h : Dfl.agree u v) (hu : u.rowReady) (hv : v.rowReady) : Dfl.agree u.turn v.turn := by
  obtain ⟨hd, hi, -, hp, -, hl, -, hn, -, -⟩ := Dfl.agree_regs h
  rw [Dfl.turn, Dfl.turn, hd, hp, hn, hi, hl]
  refine Dfl.agree_ite (fun _ => h) fun hrow => Dfl.agree_ite (fun _ => ?_) fun _ => Dfl.agree_endStep h
  refine Dfl.agree_ite (fun hlt => ?_) fun _ => Dfl.agree_raise (Dfl.agree_begin h) _
  rw [← h.2.2.1 u.ipos hlt, Dfl.rowStep, Dfl.rowStep]
  exact Dfl.agree_ite (fun _ => Dfl.agree_scanline h (hu.2 (Decidable.not_not.1 hrow)) hu.1 hv.1 _ _)
    fun _ => Dfl.agree_raise (Dfl.agree_readFilter h _) _

/-- Any number of turns of each. -/
theorem Dfl.agree_dflTurns {n : Nat} {s s' r r' : State} (h : Dfl.agree s.dfl s'.dfl) (hu : s.dfl.rowReady)
    (hv : s'.dfl.rowReady) (hr : dflTurns n s = some r) (hr' : dflTurns n s' = some r') : Dfl.agree r.dfl r'.dfl := by
  induction n generalizing s s' with
  | zero => cases hr; cases hr'; exact h
  | succ n ih =>
    simp only [dflTurns] at hr hr'
    split at hr
    · rename_i t ht
      split at hr'
      · rename_i t' ht'
        rw [eq_turn_of_dflTurn ht] at hr
        rw [eq_turn_of_dflTurn ht'] at hr'
        exact ih (Dfl.agree_turn h hu hv) (Dfl.turn_rowReady hu) (Dfl.turn_rowReady hv) hr hr'
      · cases hr'
      · cases hr'
    · cases hr
    · cases hr

/-- A legal start makes DEF ready for the row loop, whatever `cur` held. -/
theorem Dfl.start_rowReady {u : Dfl} (hlegal : u.configLegal = true) (hcur : Memory.wf (some 0) u.cur) :
    u.start.rowReady := by
  rw [Dfl.start_of_legal u hlegal]
  exact ⟨hcur, fun _ => ((Dfl.configLegal_iff u).1 hlegal).1.1⟩

/-- The start of DEF with the same legal configuration and the same input (R56, R241). -/
theorem Dfl.agree_start {u v : Dfl} (hlegal : u.configLegal = true) (hlegal' : v.configLegal = true)
    (hl : u.inLen = v.inLen) (hb : u.bpp = v.bpp) (hn : u.npass = v.npass) (hrb : u.rowBytes = v.rowBytes) (hrs : u.rows = v.rows)
    (hdin : ∀ a < u.inLen, u.dinByte a = v.dinByte a) : Dfl.agree u.start v.start := by
  rw [Dfl.start_of_legal u hlegal, Dfl.start_of_legal v hlegal', Dfl.nextPass_congr hrb.symm hrs.symm hn.symm 0]
  refine ⟨?_, nofun, hdin, fun j hj => absurd hj (Nat.not_lt_zero j), fun _ _ => rfl⟩
  rw [hl, hb, hn, hrb, hrs]

/-- A START that is not ignored, of a run that fits. -/
theorem eq_start_of_exec_defStart {s t : State} (hbusy : s.dfl.flags.busy = false) (hfault : s.dfl.flags.fault = false)
    (hfits : s.dflFits) (h : exec .defStart s = .next t) : t = s.onDfl Dfl.start := by
  obtain ⟨-, -, -, hex⟩ | ⟨hno, -⟩ := execDefStart_cases s
  · exact (Host.Outcome.next.inj (hex.symm.trans h)).symm
  · simp [hbusy, hfault, hfits] at hno

/-- Settles O59: START makes the two DEFs agree (`Dfl.agree_start`), and every turn keeps them so (`Dfl.agree_turn`), since the
row loop reads no byte of `cur` that it has not written. -/
theorem defRunsAreIndependent : Obligations.DefRunsAreIndependent := by
  unfold Obligations.DefRunsAreIndependent
  intro s s'
  refine ⟨fun t t' hp hb hf hb' hf' hl hbpp hn hrb hrs hdin h1 h8 hn1 hn7 hfits ht ht' => ?_,
    fun t t' hag hinv hinv' ht ht' => ?_⟩
  · have hlegal : s.dfl.configLegal = true := (Dfl.configLegal_iff _).2 ⟨⟨h1, h8⟩, hn1, hn7⟩
    have hlegal' : s'.dfl.configLegal = true := by rwa [Dfl.configLegal, ← hbpp, ← hn]
    have hfits' : s'.dflFits := by
      unfold State.dflFits at hfits ⊢
      rwa [← hp, ← hl, ← hn, ← hrb, ← hrs]
    have hag := Dfl.agree_start hlegal hlegal' hl hbpp hn hrb hrs hdin
    rw [eq_start_of_exec_defStart hb hf hfits ht, eq_start_of_exec_defStart hb' hf' hfits' ht']
    refine ⟨hag, fun hinv hinv' m r r' hr hr' => ?_⟩
    exact Dfl.agree_dflTurns hag (Dfl.start_rowReady hlegal (Dfl.rowReady_of_inv hinv).1)
      (Dfl.start_rowReady hlegal' (Dfl.rowReady_of_inv hinv').1) hr hr'
  · rw [eq_turn_of_dflTurn ht, eq_turn_of_dflTurn ht']
    exact Dfl.agree_turn hag (Dfl.rowReady_of_inv hinv) (Dfl.rowReady_of_inv hinv')

end Sys2Proof.Machine

/-! PROOFS. What the decoder accepts is an encoding: the converse of the round trip, context by context; O2. -/

namespace Sys2Proof

/-! ### Fields read are fields written (20_memory.md R62, R63) -/

/-- A field holds the low bits of its value alone. -/
@[simp] theorem fieldBits_mod (n v : Nat) : fieldBits n (v % 2 ^ n) = fieldBits n v := by
  induction n generalizing v with
  | zero => rfl
  | succ n ih =>
    have hbit : v % 2 ^ (n + 1) % 2 = v % 2 := Nat.mod_mod_of_dvd v ⟨2 ^ n, Nat.pow_succ'⟩
    have hrest : v % 2 ^ (n + 1) / 2 = v / 2 % 2 ^ n := by rw [Nat.pow_succ', Nat.mod_mul_right_div_self]
    simp only [fieldBits, hbit, hrest, ih]

/-- A field that was read, stored in a word as wide as it, is written back as the bits read. -/
theorem fieldBits_ofNat_takeBits {n v : Nat} {bits rest : List Bool} (h : takeBits n bits = some (v, rest)) :
    fieldBits n (BitVec.ofNat n v).toNat ++ rest = bits := by
  rw [BitVec.toNat_ofNat, fieldBits_mod]
  exact fieldBits_takeBits n bits rest v h

/-- The 3-bit fields that were read are as many as asked for, and written back they are the bits read (R95). -/
theorem flatMap_takeLens {n : Nat} {bits rest : List Bool} {lens : List (BitVec 3)}
    (h : takeLens n bits = some (lens, rest)) :
    lens.length = n ∧ (lens.flatMap fun l => fieldBits 3 l.toNat) ++ rest = bits := by
  induction n generalizing bits lens with
  | zero => cases h; exact ⟨rfl, rfl⟩
  | succ n ih =>
    unfold takeLens at h
    split at h
    · cases h
    · rename_i v after hv
      split at h
      · cases h
      · rename_i ls after' hls
        cases h
        obtain ⟨hlen, hbits⟩ := ih hls
        refine ⟨congrArg (· + 1) hlen, ?_⟩
        rw [List.flatMap_cons, List.append_assoc, hbits]
        exact fieldBits_ofNat_takeBits hv

/-- A big-endian value that was read, written back most significant byte first, is the bits read (R63, R101). -/
theorem fieldBits_takeBigEndian {bits rest : List Bool} {t : Word} (h : takeBigEndian bits = some (t, rest)) :
    fieldBits 8 (t.toNat / 2 ^ 24) ++ fieldBits 8 (t.toNat / 2 ^ 16) ++ fieldBits 8 (t.toNat / 2 ^ 8) ++
      fieldBits 8 t.toNat ++ rest = bits := by
  simp only [takeBigEndian, Option.bind_eq_bind, Option.bind_eq_some_iff, Prod.exists, Option.some.injEq,
    Prod.mk.injEq] at h
  obtain ⟨t0, b0, h0, t1, b1, h1, t2, b2, h2, t3, b3, h3, rfl, rfl⟩ := h
  have l0 := (takeBits_rest _ _ _ _ h0).2
  have l1 := (takeBits_rest _ _ _ _ h1).2
  have l2 := (takeBits_rest _ _ _ _ h2).2
  have l3 := (takeBits_rest _ _ _ _ h3).2
  have ht : (BitVec.ofNat 32 (t0 * 2 ^ 24 + t1 * 2 ^ 16 + t2 * 2 ^ 8 + t3)).toNat =
      t0 * 2 ^ 24 + t1 * 2 ^ 16 + t2 * 2 ^ 8 + t3 := by
    rw [BitVec.toNat_ofNat]; omega
  have e0 : (t0 * 2 ^ 24 + t1 * 2 ^ 16 + t2 * 2 ^ 8 + t3) / 2 ^ 24 % 2 ^ 8 = t0 := by omega
  have e1 : (t0 * 2 ^ 24 + t1 * 2 ^ 16 + t2 * 2 ^ 8 + t3) / 2 ^ 16 % 2 ^ 8 = t1 := by omega
  have e2 : (t0 * 2 ^ 24 + t1 * 2 ^ 16 + t2 * 2 ^ 8 + t3) / 2 ^ 8 % 2 ^ 8 = t2 := by omega
  have e3 : (t0 * 2 ^ 24 + t1 * 2 ^ 16 + t2 * 2 ^ 8 + t3) % 2 ^ 8 = t3 := by omega
  rw [ht, ← fieldBits_mod 8 (_ / 2 ^ 24), ← fieldBits_mod 8 (_ / 2 ^ 16), ← fieldBits_mod 8 (_ / 2 ^ 8),
    ← fieldBits_mod 8 (_ + _), e0, e1, e2, e3]
  simp only [List.append_assoc, fieldBits_takeBits _ _ _ _ h3, fieldBits_takeBits _ _ _ _ h2,
    fieldBits_takeBits _ _ _ _ h1, fieldBits_takeBits _ _ _ _ h0]

/-! ### Huffman-coded elements (30_encoding.md R96 to R99) -/

/-- The code-length element of a symbol carries that symbol. -/
theorem mkCl_coded {s x : Nat} {i : Instr} (h : mkCl s x = some i) :
    i.coded = some ⟨.codeLength, s, clExtra s, x % 2 ^ clExtra s⟩ := by
  unfold mkCl at h
  split at h <;> cases h <;> simp [Instr.coded, clExtra, Nat.mod_one]

/-- A Huffman-coded element is encoded as its code and its extra bits. -/
theorem encode_of_coded {i : Instr} {k : Coded} (c : Ctx) (h : i.coded = some k) :
    encode c i = codeBits c.lens k.sym ++ fieldBits k.xbits k.x := by
  cases i <;> cases h <;> rfl

/-- The terms that need a check of their own are no Huffman-coded elements. -/
theorem wellFormed_of_coded {i : Instr} {k : Coded} (h : i.coded = some k) : i.wellFormed = true := by
  cases i <;> cases h <;> rfl

/-- The bits a Huffman-coded element was decoded from are its code and its extra bits. -/
theorem decodeCoded_bits {lens : List CodeLen} {extra : Nat → Nat} {mk : Nat → Nat → Option Instr}
    {short : Nat → Reject} {bits rest : List Bool} {i : Instr} (h : decodeCoded lens extra mk short bits = .ok (i, rest)) :
    ∃ s x, mk s x = some i ∧ lens.getD s 0 ≠ 0 ∧ codeBits lens s ++ fieldBits (extra s) x ++ rest = bits := by
  unfold decodeCoded at h
  split at h
  · cases h
  · rename_i s after hs
    obtain ⟨hcode, -, h0⟩ := huff_ok lens bits after s hs
    split at h
    · cases h
    · rename_i x after' hx
      split at h
      · rename_i i' hmk
        cases h
        refine ⟨s, x, hmk, h0, ?_⟩
        rw [List.append_assoc, fieldBits_takeBits _ _ _ _ hx, hcode]
      · cases h

/-- A decoded Huffman-coded element can stand in a context of its alphabet and lengths, and encodes to the bits read. -/
theorem encode_of_decodeCoded {c : Ctx} {a : Alphabet} {extra : Nat → Nat} {mk : Nat → Nat → Option Instr}
    {short : Nat → Reject} {bits rest : List Bool} {i : Instr} (ha : c.alphabet = some a)
    (hmk : ∀ {s x i}, mk s x = some i → i.coded = some ⟨a, s, extra s, x % 2 ^ extra s⟩)
    (h : decodeCoded c.lens extra mk short bits = .ok (i, rest)) :
    i.wellFormed = true ∧ encodable c i = true ∧ encode c i ++ rest = bits := by
  obtain ⟨s, x, hi, h0, hbits⟩ := decodeCoded_bits h
  have hk := hmk hi
  refine ⟨wellFormed_of_coded hk, ?_, ?_⟩
  · cases c <;> cases ha <;> simpa [encodable, hk, Ctx.alphabet] using h0
  · rw [encode_of_coded c hk, fieldBits_mod, hbits]

/-! ### Elements told apart by a field's value (R92, R107) -/

/-- A block header made of a 3-bit field is encoded as that field. -/
theorem encode_mkBlock {v : Nat} (hv : v < 2 ^ 3) :
    (mkBlock v).wellFormed = true ∧ encodable .blkhdr (mkBlock v) = true ∧
    encode .blkhdr (mkBlock v) = fieldBits 3 v := by
  revert v; decide

/-- A scanline made of a filter-type byte is encoded as that byte. -/
theorem encode_mkRow {v : Nat} (hv : v < 2 ^ 8) :
    (mkRow v).wellFormed = true ∧ encodable .row (mkRow v) = true ∧ encode .row (mkRow v) = fieldBits 8 v := by
  rcases Nat.lt_or_ge v 5 with hlt | hge
  · have hlegal : ∀ v < 5, (mkRow v).wellFormed = true ∧ encodable .row (mkRow v) = true ∧
        encode .row (mkRow v) = fieldBits 8 v := by decide
    exact hlegal v hlt
  · have hmk : mkRow v = .ftInvalid (BitVec.ofNat 8 v) := by
      unfold mkRow
      split
      case h_6 => rfl
      all_goals omega
    rw [hmk]
    refine ⟨decide_eq_true ?_, rfl, ?_⟩
    · rwa [BitVec.toNat_ofNat, Nat.mod_eq_of_lt hv]
    · show fieldBits 8 (BitVec.ofNat 8 v).toNat = _
      rw [BitVec.toNat_ofNat, fieldBits_mod]

/-! ### Every context -/

/-- A missing field is the only way `orEnd` rejects. -/
theorem orEnd_eq_ok_iff {α : Type} {o : Option α} {a : α} : orEnd o = .ok a ↔ o = some a := by
  cases o <;> simp [orEnd]

/-- Settles O2, by the contexts: the Huffman-coded ones by `encode_of_decodeCoded`, the others field by field
(`fieldBits_ofNat_takeBits`). -/
theorem encodeOfDecode : Obligations.EncodeOfDecode := by
  unfold Obligations.EncodeOfDecode
  intro c i bits rest hreg hn h
  cases c
  all_goals simp only [decode, orEnd_eq_ok_iff, Option.bind_eq_bind, Option.bind_eq_some_iff, Prod.exists,
    Option.some.injEq, Prod.mk.injEq] at h
  case zhdr =>
    obtain ⟨cmf, b1, h1, flg, b2, h2, rfl, rfl⟩ := h
    refine ⟨rfl, rfl, ?_⟩
    rw [encode, List.append_assoc, fieldBits_ofNat_takeBits h2, fieldBits_ofNat_takeBits h1]
    rfl
  case blkhdr =>
    obtain ⟨v, b1, h1, rfl, rfl⟩ := h
    obtain ⟨hwf, henc, hbits⟩ := encode_mkBlock (takeBits_rest _ _ _ _ h1).2
    exact ⟨hwf, henc, hbits ▸ fieldBits_takeBits _ _ _ _ h1⟩
  case stored pad =>
    obtain ⟨len, b1, h1, nlen, b2, h2, rfl, rfl⟩ := h
    refine ⟨rfl, rfl, ?_⟩
    rw [encode, List.append_assoc, List.append_assoc, fieldBits_ofNat_takeBits h2, fieldBits_ofNat_takeBits h1]
    rfl
  case dynhdr =>
    obtain ⟨hlit, b1, h1, hdist, b2, h2, hclen, b3, h3, rfl, rfl⟩ := h
    refine ⟨rfl, rfl, ?_⟩
    rw [encode, List.append_assoc, List.append_assoc, fieldBits_ofNat_takeBits h3, fieldBits_ofNat_takeBits h2,
      fieldBits_ofNat_takeBits h1]
    rfl
  case dynclen ncode =>
    obtain ⟨lens, b1, h1, rfl, rfl⟩ := h
    obtain ⟨hlen, hbits⟩ := flatMap_takeLens h1
    obtain ⟨h4, h19⟩ := hn ncode rfl
    exact ⟨by simp [Instr.wellFormed, hlen, h4, h19], by simp [encodable, hlen], hbits⟩
  case dynlens cl first => exact encode_of_decodeCoded (c := .dynlens cl first) rfl mkCl_coded h
  case tables => cases h; exact ⟨rfl, rfl, rfl⟩
  case sym ll => exact encode_of_decodeCoded (c := .sym ll) rfl mkSym_coded h
  case dist d => exact encode_of_decodeCoded (c := .dist d) rfl mkDist_coded h
  case trailer pad =>
    obtain ⟨t, b1, h1, rfl, rfl⟩ := h
    refine ⟨rfl, rfl, ?_⟩
    have := fieldBits_takeBigEndian h1
    simp only [encode, List.append_assoc] at this ⊢
    rw [this]
    rfl
  case row =>
    obtain ⟨ft, b1, h1, rfl, rfl⟩ := h
    obtain ⟨hwf, henc, hbits⟩ := encode_mkRow (takeBits_rest _ _ _ _ h1).2
    exact ⟨hwf, henc, hbits ▸ fieldBits_takeBits _ _ _ _ h1⟩
  case defEnd => cases h; exact ⟨rfl, rfl, rfl⟩
  case reg u n => exact absurd rfl (hreg u n)

end Sys2Proof

/-! PROOFS. What a step keeps about INF's output: a fact that emitting a byte keeps, and an empty output has, every step keeps;
O47. -/

namespace Sys2Proof.Machine

open Sys2Proof

/-! ### Facts about the output (42_symbols_lz77.md R190) -/

/-- The output of `v`, its window and its checksum are those of `u`. -/
def Inf.sameOutput (u v : Inf) : Prop :=
  v.outCount = u.outCount ∧ v.out = u.out ∧ v.win = u.win ∧ v.s1 = u.s1 ∧ v.s2 = u.s2

/-- Nothing has been output: a run begins, or INF was reset (10_state.md R55, R56). -/
def Inf.noOutput (u : Inf) : Prop := u.outCount = 0 ∧ u.s1 = 1 ∧ u.s2 = 0

/-- A fact about the output: it depends on nothing else, it holds of the empty output, and emitting a byte keeps it. -/
structure Inf.OutputInvariant (P : Inf → Prop) : Prop where
  congr : ∀ {u v : Inf}, P u → u.sameOutput v → P v
  empty : ∀ {u : Inf}, u.noOutput → P u
  emit : ∀ {u : Inf} (b : Byte), P u → P (u.emit b)

/-- Appending code lengths leaves the output alone. -/
theorem Inf.appendLens_sameOutput (n : Nat) (v : CodeLen) (u : Inf) : u.sameOutput (u.appendLens n v) := by
  obtain ⟨-, -, -, hregs⟩ := Inf.appendLens_regs n v u
  rw [hregs]
  exact ⟨rfl, rfl, rfl, rfl, rfl⟩

namespace Inf.OutputInvariant

variable {P : Inf → Prop} (hP : Inf.OutputInvariant P) {u : Inf}

include hP

/-! ### Each operation of INF keeps it -/

/-- An element keeps it when what follows its bits does; `UnexpectedEof` leaves the output alone. -/
theorem take {n : Nat} {k : Inf → Inf} (hk : ∀ v, P v → P (k v)) (h : P u) : P (u.take n k) := by
  obtain ⟨-, he⟩ | ⟨-, he⟩ := Inf.take_cases n k u <;> rw [he]
  · exact hk _ (hP.congr h ⟨rfl, rfl, rfl, rfl, rfl⟩)
  · exact hP.congr h ⟨rfl, rfl, rfl, rfl, rfl⟩

/-- The first action of an element keeps it. -/
theorem begin (h : P u) : P u.begin := hP.congr h ⟨rfl, rfl, rfl, rfl, rfl⟩

theorem raise {k : Kind} (h : P u) : P (u.raise k) := hP.congr h ⟨rfl, rfl, rfl, rfl, rfl⟩

theorem blockEnd (h : P u) : P u.blockEnd := hP.congr h ⟨rfl, rfl, rfl, rfl, rfl⟩

theorem blockHeader {bfinal : Bool} {btype : BitVec 2} {next : Inf → Inf} (hn : ∀ v, P v → P (next v)) (h : P u) :
    P (u.blockHeader bfinal btype next) :=
  hP.take (fun _ hv => hn _ (hP.congr hv ⟨rfl, rfl, rfl, rfl, rfl⟩)) (hP.begin h)

theorem copyStored {n : Nat} (h : P u) : P (u.copyStored n) := by
  induction n generalizing u with
  | zero => exact h
  | succ n ih => exact ih (hP.congr (hP.emit _ h) ⟨rfl, rfl, rfl, rfl, rfl⟩)

theorem copyMatch {n dist : Nat} (h : P u) : P (u.copyMatch n dist) := by
  induction n generalizing u with
  | zero => exact h
  | succ n ih => exact ih (hP.emit _ h)

/-- Table completion keeps it: it sets the phase, or faults on the unit as the step found it. -/
theorem completeTables {p : Policy} {u0 : Inf} (h0 : P u0) (h : P u) : P (Inf.completeTables p u0 u) := by
  obtain ⟨-, -, -, -, he⟩ | he := Inf.completeTables_cases p u0 u <;> rw [he]
  · exact hP.congr h ⟨rfl, rfl, rfl, rfl, rfl⟩
  · exact hP.raise h0

/-- The end of a code-length element keeps it, also when the tables are refused. -/
theorem endLens {p : Policy} {u0 : Inf} (h0 : P u0) (h : P u) : P (Inf.endLens p u0 u) := by
  obtain ⟨-, he⟩ | ⟨-, he⟩ := Inf.endLens_cases p u0 u <;> rw [he]
  · exact h
  · exact hP.completeTables h0 h

/-! ### Each element keeps it -/

theorem clExplicit {v : Nat} {p : Policy} (h : P u) : P (u.clExplicit v p) :=
  hP.take (fun _ hw => hP.endLens (hP.begin h) (hP.congr hw (Inf.appendLens_sameOutput ..))) (hP.begin h)

theorem clRepeat {x : Nat} {p : Policy} (h : P u) : P (u.clRepeat x p) := by
  unfold Inf.clRepeat
  refine hP.take (fun v hv => ?_) (hP.begin h)
  split
  · exact hP.raise hv
  · refine hP.take (fun w hw => ?_) hv
    split
    · exact hP.raise hw
    · exact hP.endLens (hP.begin h) (hP.congr hw (Inf.appendLens_sameOutput ..))

theorem clZeros {sym x : Nat} {p : Policy} (h : P u) : P (u.clZeros sym x p) := by
  unfold Inf.clZeros
  refine hP.take (fun v hv => ?_) (hP.begin h)
  split
  · exact hP.raise hv
  · exact hP.endLens (hP.begin h) (hP.congr hv ⟨rfl, rfl, rfl, rfl, rfl⟩)

theorem zhdr {cmf flg : Byte} (h : P u) : P (u.zhdr cmf flg) := by
  refine hP.take (fun v hv => ?_) (hP.begin h)
  repeat' split
  all_goals exact hP.congr hv ⟨rfl, rfl, rfl, rfl, rfl⟩

theorem ztrailer {t : Word} (h : P u) : P (u.ztrailer t) := by
  refine hP.take (fun v hv => ?_) (hP.begin h)
  repeat' split
  all_goals exact hP.congr hv ⟨rfl, rfl, rfl, rfl, rfl⟩

theorem dynhdr {hlit hdist : BitVec 5} {hclen : BitVec 4} (h : P u) : P (u.dynhdr hlit hdist hclen) := by
  refine hP.take (fun v hv => ?_) (hP.begin h)
  split <;> exact hP.congr hv ⟨rfl, rfl, rfl, rfl, rfl⟩

theorem clens {lens : List (BitVec 3)} (h : P u) : P (u.clens lens) := by
  refine hP.take (fun v hv => ?_) (hP.begin h)
  split <;> exact hP.congr hv ⟨rfl, rfl, rfl, rfl, rfl⟩

theorem stored {len nlen : BitVec 16} (h : P u) : P (u.stored len nlen) := by
  refine hP.take (fun v hv => ?_) (hP.begin h)
  split
  · exact hP.raise hv
  · split
    · exact hP.raise hv
    · exact hP.blockEnd (hP.copyStored hv)

theorem lengthHalf {sym x : Nat} (h : P u) : P (u.lengthHalf sym x) :=
  hP.take (fun _ hv => hP.congr hv ⟨rfl, rfl, rfl, rfl, rfl⟩) (hP.begin h)

theorem distanceHalf {t x : Nat} (h : P u) : P (u.distanceHalf t x) := by
  refine hP.take (fun v hv => ?_) h
  dsimp only
  split
  · exact hP.raise hv
  · exact hP.congr (hP.copyMatch hv) ⟨rfl, rfl, rfl, rfl, rfl⟩

/-! ### Every instruction, turn and step keeps it -/

/-- Every Huffman-coded element keeps it. -/
theorem exec_of_coded {i : Instr} {c : Coded} {s t : State} (hi : i.coded = some c) (h : P s.inf)
    (he : exec i s = .next t) : P t.inf := by
  obtain ⟨a, sym, k, x⟩ := c
  cases a with
  | codeLength =>
    rw [(exec_codeLength i sym k x s hi).2.2.2] at he
    cases he
    rw [State.onInf_inf]
    split
    · exact hP.clExplicit h
    · split
      · exact hP.clRepeat h
      · exact hP.clZeros h
  | literalLength =>
    rw [(exec_literalLength i sym k x s hi).2.2.2] at he
    cases he
    rw [State.onInf_inf]
    split
    · exact hP.take (fun _ hv => hP.emit _ hv) (hP.begin h)
    · split
      · exact hP.take (fun _ hv => hP.blockEnd hv) (hP.begin h)
      · split
        · exact hP.lengthHalf h
        · exact hP.take (fun _ hv => hP.raise hv) (hP.begin h)
  | distance =>
    rw [(exec_distance i sym k x s hi).2.2.2] at he
    cases he
    rw [State.onInf_inf]
    split
    · exact hP.distanceHalf h
    · exact hP.take (fun _ hv => hP.raise hv) h

/-- Every instruction keeps it; `START` and `RESET` of INF begin with no output. -/
theorem exec {i : Instr} {s t : State} (h : P s.inf) (he : exec i s = .next t) : P t.inf := by
  cases hc : i.coded with
  | some c => exact hP.exec_of_coded hc h he
  | none =>
    cases i with
    | zhdr cmf flg => cases he; exact hP.zhdr h
    | ztrailer w => cases he; exact hP.ztrailer h
    | blkStored | blkFixed | blkDyn =>
      cases he
      rw [State.onInf_inf]
      refine hP.blockHeader (fun _ hv => ?_) h
      exact hP.congr hv ⟨rfl, rfl, rfl, rfl, rfl⟩
    | blkRsv => cases he; exact hP.take (fun _ hv => hP.raise hv) (hP.begin h)
    | stored len nlen => cases he; exact hP.stored h
    | dynhdr hlit hdist hclen => cases he; exact hP.dynhdr h
    | clens lens => cases he; exact hP.clens h
    | tables =>
      cases he
      exact hP.completeTables (hP.begin h) (hP.begin h)
    | infStart =>
      obtain ⟨-, -, -, hs⟩ | ⟨-, hs⟩ := execInfStart_cases s <;> cases hs.symm.trans he
      · exact hP.empty ⟨rfl, rfl, rfl⟩
      · exact h
    | infReset => cases he; exact hP.empty ⟨rfl, rfl, rfl⟩
    | defStart =>
      obtain ⟨-, -, -, hs⟩ | ⟨-, hs⟩ := execDefStart_cases s <;> cases hs.symm.trans he <;> exact h
    | ft0 | ft1 | ft2 | ft3 | ft4 | ftInvalid | defEnd | init | byte | check | crcReset | defReset => cases he; exact h
    | _ => cases hc

/-- Fetching and running an instruction keeps it. -/
theorem infFetchRun {s t : State} (h : P s.inf) (he : infFetchRun s = .next t) : P t.inf := by
  unfold Machine.infFetchRun at he
  split at he
  · cases he; exact h
  · split at he
    · exact hP.exec h he
    · cases he
      rw [State.onInf_inf, Inf.fetchFault]
      split
      · exact hP.raise h
      · exact hP.raise (hP.begin h)

/-- A turn of INF keeps it. -/
theorem infTurn {s t : State} (h : P s.inf) (he : infTurn s = .next t) : P t.inf := by
  unfold Machine.infTurn at he
  split at he
  · rename_i r hr
    have hr' := hP.infFetchRun h hr
    split at he
    · exact hP.infFetchRun hr' he
    · cases he; exact hr'
  · exact hP.infFetchRun h he

/-- A register write of the host keeps it. -/
theorem hostWrite {u : UnitId} {n v : Nat} {s t : State} (h : P s.inf) (he : hostWrite u n v s = .next t) : P t.inf := by
  rw [hostWrite_eq] at he
  split at he
  · exact hP.exec h he
  · cases he
    cases u with
    | inf =>
      refine hP.congr h ?_
      unfold State.writeConfig Inf.writeConfig
      dsimp only [State.onInf_inf]
      repeat' split
      all_goals exact ⟨rfl, rfl, rfl, rfl, rfl⟩
    | crc => exact h
    | dfl => exact h

/-- What the host does keeps it: it writes `IN` and the configuration of INF, and power-on reset leaves no output. -/
theorem hostTurn {op : HostOp} {s t : State} (h : P s.inf) (he : hostTurn op s = .next t) : P t.inf := by
  cases op with
  | write u n v => exact hP.hostWrite h he
  | read u n => cases he; exact h
  | fillIn a b =>
    simp only [Machine.hostTurn, hostFillIn] at he
    split at he <;> cases he
    exact hP.congr h ⟨rfl, rfl, rfl, rfl, rfl⟩
  | fillDin a b =>
    simp only [Machine.hostTurn, hostFillDin] at he
    split at he <;> cases he
    exact h
  | takeOut a =>
    simp only [Machine.hostTurn, hostTakeOut] at he
    repeat' split at he
    all_goals cases he
    all_goals exact h
  | takeRaw a =>
    simp only [Machine.hostTurn, hostTakeRaw] at he
    repeat' split at he
    all_goals cases he
    all_goals exact h
  | handoff =>
    simp only [Machine.hostTurn, hostHandoff] at he
    repeat' split at he
    all_goals cases he
    exact h
  | powerOn => cases he; exact hP.empty ⟨rfl, rfl, rfl⟩

/-- Every step keeps it. -/
theorem step {s t : State} (h : P s.inf) (he : step s = .next t) : P t.inf := by
  obtain ⟨a, k, rfl | hinf | hdfl | ⟨op, hop⟩⟩ := step_cases he
  · exact h
  · exact hP.infTurn (s := { s with agenda := a, tick := k }) h hinf
  · rw [eq_turn_of_dflTurn hdfl]; exact h
  · exact hP.hostTurn (s := { s with agenda := a, tick := k }) h hop

end Inf.OutputInvariant

/-! ### The checksum of the output (40_zlib_container.md R132) -/

/-- The output bytes read back depend on `OUT` alone where every one was written. -/
theorem Inf.outputReversed_congr {u v : Inf} {n : Nat}
    (h : ∀ j < n, (Memory.find u.out j).isSome ∧ Memory.find v.out j = Memory.find u.out j) :
    v.outputReversed n = u.outputReversed n := by
  induction n with
  | zero => rfl
  | succ n ih =>
    obtain ⟨hw, hf⟩ := h n (Nat.lt_succ_self n)
    obtain ⟨b, hb⟩ := Option.isSome_iff_exists.1 hw
    have hbyte : v.outByte n = u.outByte n := by simp [Inf.outByte, hf, hb]
    rw [Inf.outputReversed, Inf.outputReversed, hbyte, ih fun j hj => h j (by omega)]

/-- One more byte in the checksum: `adler_update` adds it to the sums of R132. -/
theorem adlerS_cons {s1 s2 : BitVec 16} {bs : List Byte} (b : Byte) (h1 : s1.toNat = adlerSum1 bs)
    (h2 : s2.toNat = adlerSum2 bs) :
    (adlerS1 s1 b).toNat = adlerSum1 (b :: bs) ∧ (adlerS2 s1 s2 b).toNat = adlerSum2 (b :: bs) := by
  have hs1 : (adlerS1 s1 b).toNat = adlerSum1 (b :: bs) := by
    simp only [adlerS1, adlerMod, BitVec.toNat_ofNat, h1, adlerSum1, List.map_cons, List.sum_cons]
    omega
  refine ⟨hs1, ?_⟩
  simp only [adlerS2, adlerMod, BitVec.toNat_ofNat, hs1, h2, adlerSum2]
  omega

/-- That the checksum covers exactly the bytes output is a fact about the output. -/
theorem Inf.adlerInv_outputInvariant : Inf.OutputInvariant fun u => u.adlerInv where
  congr := by
    rintro u v ⟨hw, hs1, hs2⟩ ⟨hc, ho, -, h1, h2⟩
    have hout : v.outputReversed v.outCount = u.outputReversed u.outCount := by
      rw [hc]; exact Inf.outputReversed_congr fun j hj => ⟨hw j hj, by rw [ho]⟩
    exact ⟨by rwa [hc, ho], by rw [hout, h1, hs1], by rw [hout, h2, hs2]⟩
  empty := by
    rintro u ⟨hc, h1, h2⟩
    rw [Inf.adlerInv, hc, h1, h2]
    exact ⟨fun j hj => absurd hj (Nat.not_lt_zero j), rfl, rfl⟩
  emit := by
    rintro u b ⟨hw, hs1, hs2⟩
    have hold : (u.emit b).outputReversed u.outCount = u.outputReversed u.outCount :=
      Inf.outputReversed_congr fun j hj => ⟨hw j hj, by rw [Inf.emit_find_out, if_neg (by omega)]⟩
    have hnew : (u.emit b).outByte u.outCount = b := by simp [Inf.outByte]
    have hout : (u.emit b).outputReversed (u.emit b).outCount = b :: u.outputReversed u.outCount := by
      rw [Inf.emit_outCount, Inf.outputReversed, hnew, hold]
    obtain ⟨h1, h2⟩ := adlerS_cons b hs1 hs2
    refine ⟨fun j hj => ?_, by rw [hout]; exact h1, by rw [hout]; exact h2⟩
    rw [Inf.emit_outCount] at hj
    rw [Inf.emit_find_out]
    split
    · rfl
    · exact hw j (by omega)

/-- Settles O47: the checksum invariant is a fact about the output (`Inf.adlerInv_outputInvariant`), and every step keeps
those (`Inf.OutputInvariant.step`). -/
theorem checksumCoversTheOutput : Obligations.ChecksumCoversTheOutput := by
  unfold Obligations.ChecksumCoversTheOutput
  intro s t h hs
  exact Inf.adlerInv_outputInvariant.step h hs

end Sys2Proof.Machine

/-! PROOFS. Alignment; O7. -/

namespace Sys2Proof.Machine

open Sys2Proof

/-! ### Alignment (20_memory.md R67) -/

/-- `align()` stays within any whole number of bytes that the cursor is within. -/
theorem alignUp_le {b n : Nat} (h : b ≤ 8 * n) : alignUp b ≤ 8 * n := by
  unfold alignUp
  omega

/-- What a stored block decodes to does not depend on the pad bits. -/
theorem decode_stored_pad {n : Nat} {p : List Bool} (h : p.length = n) (bits : List Bool) :
    decode (.stored n) (p ++ bits) = decode (.stored 0) bits := by
  simp only [decode, List.drop_left' h, List.drop_zero]

/-- What a trailer decodes to does not depend on the pad bits. -/
theorem decode_trailer_pad {n : Nat} {p : List Bool} (h : p.length = n) (bits : List Bool) :
    decode (.trailer n) (p ++ bits) = decode (.trailer 0) bits := by
  simp only [decode, List.drop_left' h, List.drop_zero]

/-- Settles O7: the pad bits are dropped before anything is decoded. -/
theorem alignSkipsUnexaminedBits : Obligations.AlignSkipsUnexaminedBits := by
  unfold Obligations.AlignSkipsUnexaminedBits
  intro b
  refine ⟨rfl, fun n h => alignUp_le h, fun p q bits hp hq => ⟨?_, ?_⟩⟩
  · rw [decode_stored_pad hp, decode_stored_pad hq]
  · rw [decode_trailer_pad hp, decode_trailer_pad hq]

end Sys2Proof.Machine


/-! PROOFS. INF takes the fault of bits that are no element; O9. -/

namespace Sys2Proof.Machine

open Sys2Proof

/-! ### Rejected fetches (60_exceptions.md R271, R274, R280) -/

/-- INF takes the fault of what its bits are rejected for. -/
theorem infFetchRun_of_reject {s : State} {c : Ctx} {r : Reject} (hc : s.inf.ctx = some c)
    (hd : decode c s.inf.stream = .error r) : infFetchRun s = .next (s.onInf (Inf.fetchFault (Reject.kind r))) := by
  unfold infFetchRun
  rw [hc]
  dsimp only
  rw [hd]

/-- The code of the fault of a rejection: the end of the input is `UnexpectedEof`, all others `InvalidDeflateStream`. -/
theorem Reject.code_kind (r : Reject) : (Reject.kind r).code = if r = .endOfInput then 2 else 16 := by
  cases r <;> rfl

/-- With no match half done, the fault of a rejected fetch leaves the registers as they were found. -/
theorem Inf.fetchFault_of_whole {u : Inf} (k : Kind) (hm : u.matchLen = none) : u.fetchFault k = u.stopped k.code := by
  unfold Inf.fetchFault
  rw [hm]
  rfl

/-- The fault of a rejected distance half undoes the whole match. -/
theorem Inf.fetchFault_halfMatched (k : Kind) (n len : Nat) (u : Inf) :
    (u.halfMatched n len).fetchFault k = u.stopped k.code := rfl

/-- INF between the halves stands at the bits the length symbol leaves. -/
theorem Inf.stream_halfMatched {u : Inf} {i : Instr} {rest : List Bool} {sym k x : Nat} (len : Nat)
    (hd : decode (.sym u.llLen) u.stream = .ok (i, rest)) (hi : i.coded = some ⟨.literalLength, sym, k, x⟩) :
    (u.halfMatched (u.symBits sym) len).stream = rest := by
  rw [(Inf.decode_sym_ok hd hi).2]
  exact Inf.stream_drop rfl rfl rfl rfl

/-- A length symbol that was decoded in `SYM` is run as the length half of a match. -/
theorem infFetchRun_lengthHalf {s : State} {i : Instr} {rest : List Bool} {sym k x : Nat} (hph : s.inf.phase = .sym)
    (hm : s.inf.matchLen = none) (hd : decode (.sym s.inf.llLen) s.inf.stream = .ok (i, rest))
    (hi : i.coded = some ⟨.literalLength, sym, k, x⟩) (hlo : 257 ≤ sym) (hhi : sym ≤ 285) :
    infFetchRun s = .next { s with inf := s.inf.halfMatched (s.inf.symBits sym) (lenBase sym + x) } := by
  have hctx : s.inf.ctx = some (.sym s.inf.llLen) := by unfold Inf.ctx; rw [hm, hph]; rfl
  obtain ⟨-, -, -, hex⟩ := exec_literalLength i sym k x s hi
  rw [if_neg (by omega), if_neg (by omega), if_pos hhi] at hex
  rw [infFetchRun_of_decode hctx hd, hex]
  exact congrArg Host.Outcome.next (onInf_take_of_le s (s.inf.symBits sym) _ (Inf.decode_sym_ok hd hi).1)

/-- Settles O9: a rejected fetch takes its fault at the element's first bit, which for the second half of a match is that of the
match. -/
theorem rejectedBitsFault : Obligations.RejectedBitsFault := by
  unfold Obligations.RejectedBitsFault
  intro s hm
  refine ⟨fun c r hc hd => ?_, fun i rest sym k x r hph hd hi hlo hhi hr => ?_⟩
  · have hrun := infFetchRun_of_reject hc hd
    rw [infTurn_of_whole (fun t ht => ?_), hrun, State.onInf, Inf.fetchFault_of_whole _ hm, Reject.code_kind]
    cases hrun.symm.trans ht
    rw [State.onInf_inf, Inf.fetchFault_of_whole _ hm]
    rfl
  · have hhalf := infFetchRun_lengthHalf hph hm hd hi hlo hhi
    rw [infTurn_of_half hhalf (Option.some_ne_none _),
      infFetchRun_of_reject rfl ((Inf.stream_halfMatched _ hd hi).symm ▸ hr), State.onInf,
      Inf.fetchFault_halfMatched, Reject.code_kind]

end Sys2Proof.Machine


/-! PROOFS. A stored block; O15. -/

namespace Sys2Proof.Machine

open Sys2Proof

/-! ### A stored block (41_blocks_and_tables.md R155) -/

/-- The registers of the cursor are no part of what was emitted. -/
theorem Inf.emitted_withCursor {bs : List Byte} {u v : Inf} (h : Inf.emitted bs u v) (start pos : Nat) :
    Inf.emitted bs { u with elemStart := start, bitpos := pos } { v with elemStart := start, bitpos := pos } := by
  obtain ⟨hregs, hsums, hout, hwin, hrest⟩ := h
  exact ⟨by rw [hregs], hsums, hout, hwin, hrest⟩

/-- The pair of a stored block ends 32 bits after the aligned cursor. -/
theorem add_padBits (b : Nat) : b + (padBits b + 32) = (b + 7) / 8 * 8 + 32 := by
  unfold padBits alignUp
  omega

/-- Copying `n` bytes from a byte boundary emits those bytes of `IN`. -/
theorem Inf.copyStored_emits (u : Inf) (n : Nat) :
    Inf.emitted ((List.range n).map fun k => u.inByte (u.bitpos / 8 + k)) u { u.copyStored n with bitpos := u.bitpos } := by
  have h := Inf.copyStored_emitted u u 0 n rfl rfl rfl (Inf.emitted_nil u)
  rwa [Nat.zero_add] at h

/-- The end of a stored block: the cursor is past the bytes copied, and the final-block flag says what follows (R165). -/
theorem Inf.blockEnd_copyStored (u : Inf) (n : Nat) :
    (u.copyStored n).blockEnd = { u.copyStored n with
      elemStart := u.elemStart, bitpos := u.bitpos + 8 * n, phase := if u.bfinal then .trailer else .blkhdr } := by
  obtain ⟨-, hbitpos, hregs⟩ := Inf.copyStored_regs n u
  have helem : (u.copyStored n).elemStart = u.elemStart := by rw [hregs]
  have hfinal : (u.copyStored n).bfinal = u.bfinal := by rw [hregs]
  rw [Inf.blockEnd, ← hfinal, ← helem, ← hbitpos]

/-- A stored block whose pair is there, up to the byte `pos`: the tests of R155, then the copy and the end of the block. -/
theorem exec_stored_of_pair {len nlen : BitVec 16} {s : State} {pos : Nat} (hpos : (s.inf.bitpos + 7) / 8 + 4 = pos)
    (hpair : pos * 8 ≤ 8 * s.inf.inLen) :
    exec (.stored len nlen) s = .next { s with inf :=
      if len ^^^ nlen ≠ 0xFFFF then s.inf.stopped 16
      else if s.inf.inLen < pos + len.toNat then s.inf.stopped 2
      else (Inf.copyStored len.toNat { s.inf with elemStart := s.inf.bitpos, bitpos := pos * 8 }).blockEnd } := by
  have hb : s.inf.bitpos + (padBits s.inf.bitpos + 32) = pos * 8 := by rw [add_padBits]; omega
  refine (congrArg Host.Outcome.next (onInf_take_of_le s (padBits s.inf.bitpos + 32) _ (by omega))).trans ?_
  rw [Inf.consumed, hb, Nat.mul_div_cancel pos (by decide)]
  rfl

/-- A stored block whose pair is not there. -/
theorem exec_stored_of_short {len nlen : BitVec 16} {s : State}
    (h : 8 * s.inf.inLen < (s.inf.bitpos + 7) / 8 * 8 + 32) :
    exec (.stored len nlen) s = .next { s with inf := s.inf.stopped 2 } :=
  congrArg Host.Outcome.next (onInf_take_of_lt s (padBits s.inf.bitpos + 32) _ (by rw [add_padBits]; exact h))

/-- Settles O15: the four cases are those of the pair and the body (`exec_stored_of_short`, `exec_stored_of_pair`), and the copy
emits the body (`Inf.copyStored_emits`). -/
theorem storedBlock : Obligations.StoredBlock := by
  unfold Obligations.StoredBlock
  intro len nlen s
  refine ⟨fun hpair hc hbody => ?_, fun h => exec_stored_of_short h, fun hpair hc => ?_, fun hpair hc hbody => ?_⟩
  · generalize hpos : (s.inf.bitpos + 7) / 8 + 4 = pos at *
    have hemit := Inf.emitted_withCursor
      (Inf.copyStored_emits { s.inf with elemStart := s.inf.bitpos, bitpos := pos * 8 } len.toNat)
      s.inf.elemStart s.inf.bitpos
    dsimp only at hemit
    rw [Nat.mul_div_cancel pos (by decide)] at hemit
    refine ⟨_, hemit, ?_⟩
    rw [exec_stored_of_pair hpos (by omega), if_neg (not_not_intro hc), if_neg (by omega),
      Inf.blockEnd_copyStored]
    simp only [show pos * 8 + 8 * len.toNat = (pos + len.toNat) * 8 by omega]
  · rw [exec_stored_of_pair rfl (by omega), if_pos hc]
  · rw [exec_stored_of_pair rfl (by omega), if_neg (not_not_intro hc), if_pos hbody]

end Sys2Proof.Machine


/-! PROOFS. The faults of reserved and of short symbols; O25. -/

namespace Sys2Proof.Machine

open Sys2Proof

/-! ### Faults of symbols (42_symbols_lz77.md R195, R197, 60_exceptions.md R271) -/

/-- A distance symbol whose bits are not there takes `UnexpectedEof` at the first bit of the match. -/
theorem onInf_take_match_of_lt (s : State) (n : Nat) (k : Inf → Inf) (h : 8 * s.inf.inLen < s.inf.bitpos + n) :
    s.onInf (fun u => u.take n k) = { s with inf := s.inf.stoppedAt 2 s.inf.elemStart } :=
  congrArg (fun v => { s with inf := v }) (Inf.take_of_lt n k s.inf h)

/-- A reserved literal/length symbol whose code is there. -/
theorem exec_reservedSym {i : Instr} {sym : Nat} {s : State} (hi : i.coded = some ⟨.literalLength, sym, 0, 0⟩)
    (hres : 286 ≤ sym) (hb : s.inf.bitpos + (s.inf.llLen.getD sym 0).toNat ≤ 8 * s.inf.inLen) :
    exec i s = .next { s with inf := s.inf.stopped 16 } := by
  obtain ⟨-, hk, -, hex⟩ := exec_literalLength i sym 0 0 s hi
  rw [if_neg (by omega), if_neg (by omega), if_neg (by omega)] at hex
  rw [hex]
  exact congrArg Host.Outcome.next (onInf_take_of_le s (s.inf.symBits sym) _ (by rw [Inf.symBits, ← hk]; exact hb))

/-- A reserved distance symbol whose code is there. -/
theorem exec_reservedDist {i : Instr} {t : Nat} {s : State} (hi : i.coded = some ⟨.distance, t, 0, 0⟩) (hres : 30 ≤ t)
    (hb : s.inf.bitpos + (s.inf.dLen.getD t 0).toNat ≤ 8 * s.inf.inLen) :
    exec i s = .next { s with inf := s.inf.stoppedAt 16 s.inf.elemStart } := by
  obtain ⟨-, hk, -, hex⟩ := exec_distance i t 0 0 s hi
  rw [if_neg (by omega)] at hex
  rw [hex]
  exact congrArg (fun v => Host.Outcome.next ({ s with inf := v } : State))
    (Inf.take_of_le (s.inf.distBits t) _ s.inf (by rw [Inf.distBits, ← hk]; exact hb))

/-- A literal/length symbol whose code and extra bits are not all there. -/
theorem exec_literalLength_of_short {i : Instr} {sym k x : Nat} {s : State}
    (hi : i.coded = some ⟨.literalLength, sym, k, x⟩)
    (hb : 8 * s.inf.inLen < s.inf.bitpos + (s.inf.llLen.getD sym 0).toNat + k) :
    exec i s = .next { s with inf := s.inf.stopped 2 } := by
  obtain ⟨-, hk, -, hex⟩ := exec_literalLength i sym k x s hi
  have hlt : 8 * s.inf.inLen < s.inf.bitpos + s.inf.symBits sym := by rw [Inf.symBits, ← hk]; omega
  rw [hex]
  refine congrArg Host.Outcome.next ?_
  split
  · exact onInf_take_of_lt s _ _ hlt
  · split
    · rename_i heob
      subst heob
      exact onInf_take_of_lt s _ _ hlt
    · split <;> exact onInf_take_of_lt s _ _ hlt

/-- A distance symbol whose code and extra bits are not all there. -/
theorem exec_distance_of_short {i : Instr} {t k x : Nat} {s : State} (hi : i.coded = some ⟨.distance, t, k, x⟩)
    (hb : 8 * s.inf.inLen < s.inf.bitpos + (s.inf.dLen.getD t 0).toNat + k) :
    exec i s = .next { s with inf := s.inf.stoppedAt 2 s.inf.elemStart } := by
  obtain ⟨-, hk, -, hex⟩ := exec_distance i t k x s hi
  have hlt : 8 * s.inf.inLen < s.inf.bitpos + s.inf.distBits t := by rw [Inf.distBits, ← hk]; omega
  rw [hex]
  refine congrArg Host.Outcome.next ?_
  split <;> exact onInf_take_match_of_lt s _ _ hlt

/-- Settles O25: the two reserved symbols of each alphabet, their codes in the fixed sets, and every symbol that is short of
bits. -/
theorem symbolFaults : Obligations.SymbolFaults := by
  unfold Obligations.SymbolFaults
  refine ⟨fun i sym s hi hb => ?_, fun i t s hi hb => ?_, ?_, ?_, ?_, ?_, fun i sym k x s =>
    ⟨exec_literalLength_of_short, exec_distance_of_short⟩⟩
  · simp only [List.mem_cons, Prod.mk.injEq, List.not_mem_nil, or_false] at hi
    obtain ⟨rfl, rfl⟩ | ⟨rfl, rfl⟩ := hi <;> exact exec_reservedSym rfl (by decide) hb
  · simp only [List.mem_cons, Prod.mk.injEq, List.not_mem_nil, or_false] at hi
    obtain ⟨rfl, rfl⟩ | ⟨rfl, rfl⟩ := hi <;> exact exec_reservedDist rfl (by decide) hb
  all_goals decide +kernel

end Sys2Proof.Machine


/-! PROOFS. A scanline is reconstructed; O31. -/

namespace Sys2Proof.Machine

open Sys2Proof

/-! ### The reconstructed row (44_defilter.md R243) -/

/-- The row loop leaves the bytes before it alone. -/
theorem Dfl.rowByte_rebuild_before (pr : Nat → Nat → Nat → Nat) (u : Dfl) (n i : Nat) (cur : Memory) {k : Nat} (hk : k < i) :
    rowByte (u.rebuild pr n i cur) k = rowByte cur k := by
  rw [rowByte, Dfl.rebuild_other pr u n i cur k (.inl hk), rowByte]

/-- Every byte of a reconstructed row is the filtered byte plus the prediction from the row itself and the one above. -/
theorem Dfl.rowByte_rebuild {pr : Nat → Nat → Nat → Nat} {u : Dfl} (hpos : 1 ≤ u.bpp.toNat) {n i : Nat} {cur : Memory}
    (hw : Memory.wf (some 0) cur) {k : Nat} (hik : i ≤ k) (hkn : k < i + n) :
    rowByte (u.rebuild pr n i cur) k = u.rowValue pr (u.rebuild pr n i cur) k := by
  induction n generalizing i cur with
  | zero => omega
  | succ n ih =>
    rw [Dfl.rebuild]
    by_cases hk : i = k
    · subst hk
      rw [Dfl.rowByte_rebuild_before _ _ _ _ _ (Nat.lt_succ_self i), rowByte_write _ _ _ _ hw, if_pos rfl]
      refine Dfl.rowValue_congr (Nat.lt_succ_self i) rfl hpos (fun _ _ => rfl) rfl fun j hj => ?_
      rw [Dfl.rowByte_rebuild_before _ _ _ _ _ (by omega), rowByte_write _ _ _ _ hw, if_neg (by omega)]
    · exact ih (Memory.write_wf _ _ _ _ hw) (by omega) (by omega)

/-- Which sub-image comes next does not depend on the row just done. -/
theorem Dfl.nextPass_rowDone (ft : Byte) (cur : Memory) (u : Dfl) (p : Nat) :
    ((u.readFilter ft).rowDone cur).nextPass p = u.nextPass p :=
  Dfl.nextPass_congr (u := u) (v := (u.readFilter ft).rowDone cur) rfl rfl rfl p

/-- A scanline whose row is there: the cursors are past it, and after the last row of a sub-image the next non-empty one
is entered (R242). -/
theorem Dfl.scanline_of_le {ft : Byte} {pr : Nat → Nat → Nat → Nat} {u : Dfl} {n : Nat} (hn : n = u.rowBytes.getD u.pass 0)
    (hle : u.ipos + 1 + n ≤ u.inLen) :
    u.scanline ft pr = { u with
      elemStart := u.ipos, ftype := ft, cur := (u.readFilter ft).rebuild pr n 0 u.cur
      raw := copyRow ((u.readFilter ft).rebuild pr n 0 u.cur) u.opos n 0 u.raw
      ipos := u.ipos + 1 + n, opos := u.opos + n
      pass := if u.row + 1 = u.rows.getD u.pass 0 then u.nextPass (u.pass + 1) else u.pass
      row := if u.row + 1 = u.rows.getD u.pass 0 then 0 else u.row + 1
      prev := if u.row + 1 = u.rows.getD u.pass 0 then [] else (u.readFilter ft).rebuild pr n 0 u.cur } := by
  subst hn
  rw [Dfl.scanline_eq, if_neg (by omega)]
  by_cases hlast : u.row + 1 = u.rows.getD u.pass 0
  · have hrow : ((u.readFilter ft).rowDone ((u.readFilter ft).rebuilt pr)).nextRow =
        ((u.readFilter ft).rowDone ((u.readFilter ft).rebuilt pr)).enterPass (u.pass + 1) := if_pos hlast
    rw [hrow, Dfl.enterPass, Dfl.nextPass_rowDone, if_pos hlast, if_pos hlast, if_pos hlast]
    rfl
  · have hrow : ((u.readFilter ft).rowDone ((u.readFilter ft).rebuilt pr)).nextRow =
        (u.readFilter ft).rowDone ((u.readFilter ft).rebuilt pr) := if_neg hlast
    rw [hrow, if_neg hlast, if_neg hlast, if_neg hlast]
    rfl

/-- `FT0` to `FT4` are the scanline step with the predictor of their number (R244 to R248). -/
theorem exec_filter {i : Instr} {ft : Nat} (s : State)
    (hi : (i, ft) ∈ [(Instr.ft0, 0), (.ft1, 1), (.ft2, 2), (.ft3, 3), (.ft4, 4)]) :
    exec i s = .next { s with dfl := s.dfl.scanline (BitVec.ofNat 8 ft) (pred ft) } := by
  simp only [List.mem_cons, Prod.mk.injEq, List.not_mem_nil, or_false] at hi
  obtain ⟨rfl, rfl⟩ | ⟨rfl, rfl⟩ | ⟨rfl, rfl⟩ | ⟨rfl, rfl⟩ | ⟨rfl, rfl⟩ := hi <;> rfl

/-- Settles O31: each of the five is a scanline step (`exec_filter`, `Dfl.scanline_of_le`), whose row loop makes the row
(`Dfl.rowByte_rebuild`) and whose copy puts it in `RAW` (`copyRow_find`). -/
theorem scanlineIsReconstructed : Obligations.ScanlineIsReconstructed := by
  unfold Obligations.ScanlineIsReconstructed
  intro i ft n s hi hn hmem hbpp _ hle
  obtain ⟨-, -, -, hcur, -⟩ := hmem
  generalize hrow : (s.dfl.readFilter (BitVec.ofNat 8 ft)).rebuild (pred ft) n 0 s.dfl.cur = cur
  refine ⟨cur, copyRow cur s.dfl.opos n 0 s.dfl.raw, ?_, fun k hk => ?_, fun a => ?_⟩
  · subst hrow
    rw [exec_filter s hi, Dfl.scanline_of_le hn hle]
  · have hbyte := Dfl.rowByte_rebuild (pr := pred ft) (u := s.dfl.readFilter (BitVec.ofNat 8 ft)) hbpp hcur
      (Nat.zero_le k) (n := n) (by omega)
    rw [hrow] at hbyte
    rw [hbyte, Dfl.rowValue, BitVec.toNat_ofNat, Nat.mod_mod]
    rfl
  · rw [copyRow_find, Nat.add_zero]

end Sys2Proof.Machine


/-! PROOFS. The host and the buffers; O42. -/

namespace Sys2Proof.Machine

open Sys2Proof

/-! ### The host's access to the buffers (20_memory.md R74, R79, 70_reset_and_hazards.md R321, R324) -/

/-- Keeping the bytes below an address. -/
theorem Memory.find_filter_lt (m : Memory) (n a : Nat) :
    Memory.find (m.filter fun c => c.1 < n) a = if a < n then Memory.find m a else none := by
  induction m with
  | nil => simp [Memory.find]
  | cons c rest ih =>
    obtain ⟨x, b⟩ := c
    by_cases hx : x < n
    · rw [List.filter_cons_of_pos (by simpa using hx), Memory.find, Memory.find, ih]
      by_cases ha : a = x
      · rw [if_pos ha, if_pos ha, if_pos (ha ▸ hx)]
      · rw [if_neg ha, if_neg ha]
    · rw [List.filter_cons_of_neg (by simpa using hx), ih, Memory.find]
      by_cases ha : a < n
      · rw [if_pos ha, if_pos ha, if_neg (by omega)]
      · rw [if_neg ha, if_neg ha]

section HostTurn

variable {s : State} {a : Nat} {b : Byte}

/-- A busy INF's buffers are not the host's. -/
theorem hostTurn_of_inf_busy (h : s.inf.flags.busy = true) :
    hostTurn (.fillIn a b) s = .refused .hostTouchedBusyBuffer ∧ hostTurn (.takeOut a) s = .refused .hostTouchedBusyBuffer :=
  ⟨if_pos h, if_pos h⟩

/-- A busy DEF's buffers are not the host's. -/
theorem hostTurn_of_dfl_busy (h : s.dfl.flags.busy = true) :
    hostTurn (.fillDin a b) s = .refused .hostTouchedBusyBuffer ∧ hostTurn (.takeRaw a) s = .refused .hostTouchedBusyBuffer :=
  ⟨if_pos h, if_pos h⟩

theorem hostTurn_fillIn (h : s.inf.flags.busy = false) :
    hostTurn (.fillIn a b) s = .next (s.onInf fun u => { u with input := Memory.write none u.input a b }) :=
  if_neg (Bool.eq_false_iff.1 h)

theorem hostTurn_fillDin (h : s.dfl.flags.busy = false) :
    hostTurn (.fillDin a b) s = .next (s.onDfl fun u => { u with din := Memory.write none u.din a b }) :=
  if_neg (Bool.eq_false_iff.1 h)

theorem hostTurn_takeOut (h : s.inf.flags.busy = false) (hv : s.inf.flags.outValid = true) (ha : a < s.inf.outCount) :
    hostTurn (.takeOut a) s = .next { s with hostData := (s.inf.outByte a).toNat } :=
  (if_neg (Bool.eq_false_iff.1 h)).trans (if_pos ⟨hv, ha⟩)

theorem hostTurn_takeRaw (h : s.dfl.flags.busy = false) (hv : s.dfl.flags.outValid = true) (ha : a < s.dfl.opos) :
    hostTurn (.takeRaw a) s = .next { s with hostData := (s.dfl.rawByte a).toNat } :=
  (if_neg (Bool.eq_false_iff.1 h)).trans (if_pos ⟨hv, ha⟩)

/-- What the handoff does, with neither unit busy. -/
theorem hostTurn_handoff (hi : s.inf.flags.busy = false) (hd : s.dfl.flags.busy = false) :
    hostTurn .handoff s =
      if s.inf.flags.done && s.inf.flags.outValid then
        .next (s.onDfl fun u =>
          { u with din := s.inf.out.filter fun c => c.1 < s.inf.outCount, inLen := s.inf.outCount })
      else .refused .handoffWithoutOutput :=
  if_neg (by rw [hi, hd]; decide)

end HostTurn

/-- A byte of `IN` after the host wrote one. -/
theorem Inf.inByte_write (u : Inf) (a c : Nat) (b : Byte) :
    Inf.inByte { u with input := Memory.write none u.input a b } c = if c = a then b else u.inByte c := by
  unfold Inf.inByte
  rw [Memory.find_write]
  split <;> rfl

/-- A byte of `DIN` after the host wrote one. -/
theorem Dfl.dinByte_write (u : Dfl) (a c : Nat) (b : Byte) :
    Dfl.dinByte { u with din := Memory.write none u.din a b } c = if c = a then b else u.dinByte c := by
  unfold Dfl.dinByte
  rw [Memory.find_write]
  split <;> rfl

/-- Settles O42, one host action after the other. -/
theorem hostAndTheBuffers : Obligations.HostAndTheBuffers := by
  unfold Obligations.HostAndTheBuffers
  intro s a b
  refine ⟨hostTurn_of_inf_busy, hostTurn_of_dfl_busy, fun h => ?_, fun h => ?_, hostTurn_takeOut, hostTurn_takeRaw,
    fun hi hd hdone hv hw => ?_, fun hi hd hv => ?_⟩
  · exact ⟨_, hostTurn_fillIn h, rfl, (Inf.inByte_write ..).trans (if_pos rfl),
      fun c hc => (Inf.inByte_write ..).trans (if_neg hc)⟩
  · exact ⟨_, hostTurn_fillDin h, rfl, (Dfl.dinByte_write ..).trans (if_pos rfl),
      fun c hc => (Dfl.dinByte_write ..).trans (if_neg hc)⟩
  · refine ⟨_, (hostTurn_handoff hi hd).trans (if_pos (by rw [hdone, hv]; rfl)), rfl, fun j hj => ?_, fun j hj => ?_⟩
    · obtain ⟨x, hx⟩ := Option.isSome_iff_exists.1 (hw j hj)
      simp [Dfl.dinByte, Inf.outByte, Memory.find_filter_lt, hj, hx]
    · exact (Memory.find_filter_lt ..).trans (if_neg (Nat.not_lt.2 hj))
  · exact (hostTurn_handoff hi hd).trans (if_neg (by rw [hv, Bool.and_false]; decide))

end Sys2Proof.Machine


/-! PROOFS. The decoder gives back what the encoder wrote, context by context; O1, O5. -/

namespace Sys2Proof

/-! ### Fields written are fields read (20_memory.md R62, R63) -/

/-- The value a word holds is that of a field as wide as the word. -/
@[simp] theorem takeBits_fieldBits_toNat {n : Nat} (b : BitVec n) (rest : List Bool) :
    takeBits n (fieldBits n b.toNat ++ rest) = some (b.toNat, rest) := by
  rw [takeBits_fieldBits, Nat.mod_eq_of_lt b.isLt]

/-- The 3-bit fields of a list of lengths are read as those lengths (R95). -/
theorem takeLens_flatMap (lens : List (BitVec 3)) (rest : List Bool) :
    takeLens lens.length ((lens.flatMap fun l => fieldBits 3 l.toNat) ++ rest) = some (lens, rest) := by
  induction lens with
  | nil => rfl
  | cons l ls ih => simp [takeLens, List.append_assoc, ih]

/-- A value written most significant byte first is read as that value (R63, R101). -/
theorem takeBigEndian_fieldBits (t : Word) (rest : List Bool) :
    takeBigEndian (fieldBits 8 (t.toNat / 2 ^ 24) ++ (fieldBits 8 (t.toNat / 2 ^ 16) ++ (fieldBits 8 (t.toNat / 2 ^ 8) ++
      (fieldBits 8 t.toNat ++ rest)))) = some (t, rest) := by
  have hval : t.toNat / 2 ^ 24 % 2 ^ 8 * 2 ^ 24 + t.toNat / 2 ^ 16 % 2 ^ 8 * 2 ^ 16 + t.toNat / 2 ^ 8 % 2 ^ 8 * 2 ^ 8 +
      t.toNat % 2 ^ 8 = t.toNat := by have := t.isLt; omega
  simp only [takeBigEndian, takeBits_fieldBits, Option.bind_eq_bind, Option.bind_some, hval, BitVec.ofNat_toNat,
    BitVec.setWidth_eq]

/-! ### Huffman-coded elements (30_encoding.md R96 to R99) -/

/-- A code-length element is the one made from its symbol and extra value, which fits its extra bits. -/
theorem mkCl_of_coded {i : Instr} {s k x : Nat} (h : i.coded = some ⟨.codeLength, s, k, x⟩) :
    mkCl s x = some i ∧ k = clExtra s ∧ x < 2 ^ k := by
  obtain ⟨-, hk, hx, -⟩ := Machine.exec_codeLength i s k x Machine.State.reset h
  refine ⟨?_, hk, hx⟩
  cases i <;> cases h <;> simp [mkCl]

/-- A literal/length element is the one made from its symbol and extra value, which fits its extra bits. -/
theorem mkSym_of_coded {i : Instr} {s k x : Nat} (h : i.coded = some ⟨.literalLength, s, k, x⟩) :
    mkSym s x = some i ∧ k = lenExtra s ∧ x < 2 ^ k := by
  obtain ⟨-, hk, hx, -⟩ := Machine.exec_literalLength i s k x Machine.State.reset h
  refine ⟨?_, hk, hx⟩
  cases i with
  | lit v => cases h; exact (if_pos v.isLt).trans (by rw [BitVec.ofNat_toNat, BitVec.setWidth_eq])
  | _ => cases h <;> simp [mkSym]

/-- A distance element is the one made from its symbol and extra value, which fits its extra bits. -/
theorem mkDist_of_coded {i : Instr} {t k x : Nat} (h : i.coded = some ⟨.distance, t, k, x⟩) :
    mkDist t x = some i ∧ k = distExtra t ∧ x < 2 ^ k := by
  obtain ⟨-, hk, hx, -⟩ := Machine.exec_distance i t k x Machine.State.reset h
  refine ⟨?_, hk, hx⟩
  cases i <;> cases h <;> simp [mkDist]

/-- A code and extra bits are decoded to the element of their symbol and value. -/
theorem decodeCoded_codeBits {lens : List CodeLen} {extra : Nat → Nat} {mk : Nat → Nat → Option Instr} {i : Instr}
    {s x : Nat} (short : Nat → Reject) (hn : classify lens ≠ .overSubscribed) (h0 : lens.getD s 0 ≠ 0)
    (hx : x < 2 ^ extra s) (hmk : mk s x = some i) (rest : List Bool) :
    decodeCoded lens extra mk short (codeBits lens s ++ (fieldBits (extra s) x ++ rest)) = .ok (i, rest) := by
  simp only [decodeCoded, huff_code lens s hn h0, takeBits_fieldBits, Nat.mod_eq_of_lt hx, hmk]

/-! ### Every context -/

/-- The round trip in context `c`: what the encoder writes for `i` is read back as `i`, and nothing after it is read. -/
def roundTrips (c : Ctx) (i : Instr) : Prop := ∀ rest : List Bool, decode c (encode c i ++ rest) = .ok (i, rest)

theorem roundTrips_zhdr (cmf flg : Byte) : roundTrips .zhdr (.zhdr cmf flg) := by
  intro rest
  simp [decode, encode, orEnd]

theorem roundTrips_stored (pad : Nat) (len nlen : BitVec 16) : roundTrips (.stored pad) (.stored len nlen) := by
  intro rest
  simp [decode, encode, orEnd, Ctx.pad]

theorem roundTrips_dynhdr (hlit hdist : BitVec 5) (hclen : BitVec 4) : roundTrips .dynhdr (.dynhdr hlit hdist hclen) := by
  intro rest
  simp [decode, encode, orEnd]

theorem roundTrips_clens (lens : List (BitVec 3)) : roundTrips (.dynclen lens.length) (.clens lens) := by
  intro rest
  simp [decode, encode, orEnd, takeLens_flatMap]

theorem roundTrips_ztrailer (pad : Nat) (t : Word) : roundTrips (.trailer pad) (.ztrailer t) := by
  intro rest
  simp only [decode, encode, orEnd, Ctx.pad, List.append_assoc, List.drop_left' (List.length_replicate ..),
    takeBigEndian_fieldBits, Option.bind_eq_bind, Option.bind_some]

/-- The round trip of the four block headers. -/
theorem roundTrips_blkhdr {i : Instr} (h : encodable .blkhdr i = true) : roundTrips .blkhdr i := by
  intro rest
  cases i with
  | blkStored b | blkFixed b | blkDyn b | blkRsv b => cases b <;> rfl
  | _ => cases h

/-- The round trip of the filter-type bytes; well-formedness keeps the invalid ones from being valid ones. -/
theorem roundTrips_row {i : Instr} (hw : i.wellFormed = true) (h : encodable .row i = true) : roundTrips .row i := by
  intro rest
  cases i with
  | ft0 | ft1 | ft2 | ft3 | ft4 => rfl
  | ftInvalid ft =>
    have hft : mkRow ft.toNat = .ftInvalid (BitVec.ofNat 8 ft.toNat) := by
      have hge : 5 ≤ ft.toNat := of_decide_eq_true hw
      unfold mkRow
      split
      case h_6 => rfl
      all_goals omega
    simp [decode, encode, orEnd, hft]
  | _ => cases h

/-- What can stand in a context of Huffman-coded elements: an element of its alphabet whose symbol has a code. -/
theorem coded_of_encodable {c : Ctx} {a : Alphabet} {i : Instr} (ha : c.alphabet = some a) (h : encodable c i = true) :
    ∃ s k x, i.coded = some ⟨a, s, k, x⟩ ∧ c.lens.getD s 0 ≠ 0 := by
  cases hi : i.coded with
  | none => cases c <;> cases ha <;> simp [encodable, hi] at h
  | some q =>
    obtain ⟨b, s, k, x⟩ := q
    cases c <;> cases ha <;> simp [encodable, hi, Ctx.alphabet] at h <;> exact ⟨s, k, x, by rw [h.1], by simpa using h.2⟩

/-- The round trip of a context of Huffman-coded elements. -/
theorem roundTrips_coded {c : Ctx} {a : Alphabet} {extra : Nat → Nat} {mk : Nat → Nat → Option Instr}
    {short : Nat → Reject} {i : Instr} (hd : decode c = decodeCoded c.lens extra mk short) (ha : c.alphabet = some a)
    (hmk : ∀ {i s k x}, i.coded = some ⟨a, s, k, x⟩ → mk s x = some i ∧ k = extra s ∧ x < 2 ^ k)
    (hn : classify c.lens ≠ .overSubscribed) (he : encodable c i = true) : roundTrips c i := by
  intro rest
  obtain ⟨s, k, x, hi, h0⟩ := coded_of_encodable ha he
  obtain ⟨hsym, rfl, hx⟩ := hmk hi
  rw [encode_of_coded c hi, hd, List.append_assoc]
  exact decodeCoded_codeBits short hn h0 hx hsym rest

/-- A command is the 32-bit value whose write it is. -/
theorem roundTrips_command {u : UnitId} {n v : Nat} {i : Instr} (he : ∀ c, encode c i = fieldBits 32 v) (hv : v < 2 ^ 32)
    (hi : mkCommand u n v = some i) : roundTrips (.reg u n) i := by
  intro rest
  simp only [decode, he, takeBits_fieldBits, Nat.mod_eq_of_lt hv, hi]

/-- The round trip of the register writes that are commands. -/
theorem roundTrips_reg {u : UnitId} {n : Nat} {i : Instr} (h : encodable (.reg u n) i = true) :
    roundTrips (.reg u n) i := by
  unfold encodable at h
  split at h
  case h_13 hreg | h_14 hreg | h_15 hreg =>
    cases hreg
    rw [Bool.or_eq_true, beq_iff_eq, beq_iff_eq] at h
    obtain rfl | rfl := h
    · exact roundTrips_command (v := 1) (fun _ => rfl) (by decide) rfl
    · exact roundTrips_command (v := 2) (fun _ => rfl) (by decide) rfl
  case h_16 hreg =>
    cases hreg
    split at h
    · rename_i b
      exact roundTrips_command (fun _ => rfl) (by omega) (by simp [mkCommand])
    · cases h
  case h_17 hreg =>
    cases hreg
    split at h
    · rename_i e
      exact roundTrips_command (fun _ => rfl) e.isLt (by simp [mkCommand])
    · cases h
  all_goals contradiction

/-- Settles O1, by the contexts: the Huffman-coded ones by `roundTrips_coded`, which rests on `huff_code`, the others field by
field. -/
theorem decodeOfEncode : Obligations.DecodeOfEncode := by
  unfold Obligations.DecodeOfEncode
  intro c i rest hw he hn
  suffices h : roundTrips c i from h rest
  cases c with
  | zhdr => cases i with
    | zhdr cmf flg => exact roundTrips_zhdr cmf flg
    | _ => cases he
  | blkhdr => exact roundTrips_blkhdr he
  | stored pad => cases i with
    | stored len nlen => exact roundTrips_stored pad len nlen
    | _ => cases he
  | dynhdr => cases i with
    | dynhdr hlit hdist hclen => exact roundTrips_dynhdr hlit hdist hclen
    | _ => cases he
  | dynclen ncode => cases i with
    | clens lens => exact eq_of_beq he ▸ roundTrips_clens lens
    | _ => cases he
  | dynlens cl first => exact roundTrips_coded rfl rfl mkCl_of_coded hn he
  | tables => cases eq_of_beq he; exact fun _ => rfl
  | sym ll => exact roundTrips_coded rfl rfl mkSym_of_coded hn he
  | dist d => exact roundTrips_coded rfl rfl mkDist_of_coded hn he
  | trailer pad => cases i with
    | ztrailer t => exact roundTrips_ztrailer pad t
    | _ => cases he
  | row => exact roundTrips_row hw he
  | defEnd => cases eq_of_beq he; exact fun _ => rfl
  | reg u n => exact roundTrips_reg he

/-- A word is decoded to the instruction it is the encoding of. -/
theorem decode_of_encode_eq {c : Ctx} {i : Instr} {word : List Bool} (h : encode c i = word) (hw : i.wellFormed = true)
    (he : encodable c i = true) (hn : classify c.lens ≠ .overSubscribed) : decode c word = .ok (i, []) := by
  rw [← h, ← decodeOfEncode c i [] hw he hn, List.append_nil]

/-- Settles O5: each word is the encoding of its instruction. -/
theorem wordsOfEveryUnitDecode : Obligations.WordsOfEveryUnitDecode := by
  unfold Obligations.WordsOfEveryUnitDecode
  refine ⟨?_, ?_, ?_, ?_, ?_, ?_, ?_, ?_, ?_⟩
  all_goals refine decode_of_encode_eq ?_ rfl ?_ ?_
  all_goals decide +kernel

end Sys2Proof


/-! PROOFS. The two halves of a match; O22, O23. -/

namespace Sys2Proof.Machine

open Sys2Proof

/-! ### The two halves of a match (42_symbols_lz77.md R194, R198, R199) -/

/-- A match length is 3 to 258 (R98). -/
theorem lenBase_bounds {sym x : Nat} (hlo : 257 ≤ sym) (hhi : sym ≤ 285) (hx : x < 2 ^ lenExtra sym) :
    3 ≤ lenBase sym + x ∧ lenBase sym + x ≤ 258 := by
  have h : ∀ k < 29, 3 ≤ lenBase (257 + k) ∧ lenBase (257 + k) + 2 ^ lenExtra (257 + k) ≤ 259 := by decide
  obtain ⟨h1, h2⟩ := h (sym - 257) (by omega)
  rw [Nat.add_sub_cancel' hlo] at h1 h2
  omega

/-- Settles O22: the length symbols are `Inf.lengthHalf` (`exec_literalLength`), and their lengths are in range
(`lenBase_bounds`). -/
theorem matchLengthHalf : Obligations.MatchLengthHalf := by
  unfold Obligations.MatchLengthHalf
  intro i sym k x s hi hlo hhi
  obtain ⟨-, rfl, hx, hex⟩ := exec_literalLength i sym k x s hi
  obtain ⟨hmin, hmax⟩ := lenBase_bounds hlo hhi hx
  refine ⟨hmin, hmax, fun hfit => ?_⟩
  rw [hex, if_neg (by omega), if_neg (by omega), if_pos hhi]
  exact congrArg Host.Outcome.next (onInf_take_of_le s (s.inf.symBits sym) _ (by rw [Inf.symBits]; omega))

section DistanceHalf

variable {u : Inf} {t x : Nat} (hfit : u.bitpos + u.distBits t ≤ 8 * u.inLen)

include hfit

/-- The distance half, with the distance within the output: the bits are consumed and the match is copied (R199). -/
theorem Inf.distanceHalf_of_le (hdist : distBase t + x ≤ u.outCount) :
    u.distanceHalf t x = { u.copyMatch (u.matchLen.getD 0) (distBase t + x) with
      bitpos := u.bitpos + u.distBits t, matchLen := none } := by
  generalize hv : u.copyMatch (u.matchLen.getD 0) (distBase t + x) = v
  have helem : v.elemStart = u.elemStart := by rw [← hv, (Inf.copyMatch_regs ..).2]
  calc u.distanceHalf t x
      = { (u.advance (u.distBits t)).copyMatch (u.matchLen.getD 0) (distBase t + x) with matchLen := none } :=
        (Inf.take_of_le _ _ u hfit).trans (if_neg (Nat.not_lt.2 hdist))
    _ = { v with elemStart := u.elemStart, bitpos := u.bitpos + u.distBits t, matchLen := none } :=
        hv ▸ congrArg (fun v : Inf => { v with matchLen := none }) (Inf.copyMatch_cursor _ _ u.elemStart _ u.matchLen u)
    _ = { v with bitpos := u.bitpos + u.distBits t, matchLen := none } := by rw [← helem]

/-- The distance half, with the distance beyond the output: the fault is taken at the first bit of the match (R198). -/
theorem Inf.distanceHalf_of_lt (hdist : u.outCount < distBase t + x) :
    u.distanceHalf t x = u.stoppedAt 16 u.elemStart :=
  (Inf.take_of_le _ _ u hfit).trans (if_pos hdist)

end DistanceHalf

/-- Settles O23: the distance symbols are `Inf.distanceHalf` (`exec_distance`), and under the window invariant its copy is the
cyclic one (`Inf.copyMatch_emitted`). -/
theorem matchDistanceHalf : Obligations.MatchDistanceHalf := by
  unfold Obligations.MatchDistanceHalf
  intro i t k x len s hi ht
  obtain ⟨-, rfl, hx, hex⟩ := exec_distance i t k x s hi
  obtain ⟨hpos, hle⟩ := distBase_bounds ht hx
  rw [if_pos ht, State.onInf] at hex
  refine ⟨hpos, hle, fun hlen hwin hfit => ?_⟩
  rw [Nat.add_assoc] at hfit
  refine ⟨fun hdist => ⟨s.inf.copyMatch len (distBase t + x), ?_, ?_⟩, fun hdist => ?_⟩
  · have hcopy := Inf.copyMatch_emitted s.inf s.inf (distBase t + x) 0 len hpos hle hdist hwin (Inf.emitted_nil s.inf)
    rwa [Nat.zero_add] at hcopy
  · rw [hex, Inf.distanceHalf_of_le hfit hdist, hlen]
    rfl
  · rw [hex, Inf.distanceHalf_of_lt hfit hdist]

end Sys2Proof.Machine


/-! PROOFS. Canonical codes: no code begins another, the Kraft sum and the loops of R103; O3, O4. -/

namespace Sys2Proof

/-! ### The codes of a set begin no other code, and a complete set leaves no bits without a code (30_encoding.md R102 to R104) -/

/-- No code is a first part of another one: the bits of the longer one would be decoded to both symbols. -/
theorem codeBits_isPrefix_inj {lens : List CodeLen} {s t : Nat} (hn : classify lens ≠ .overSubscribed)
    (hs : lens.getD s 0 ≠ 0) (ht : lens.getD t 0 ≠ 0) (h : codeBits lens s <+: codeBits lens t) : s = t := by
  obtain ⟨more, hmore⟩ := h
  have hdec := huff_code lens t hn ht []
  rw [List.append_nil, ← hmore, huff_code lens s hn hs more] at hdec
  injection hdec with hdec
  injection hdec

/-- An `L`-bit number at or past the first code of its length that is no code is past all codes of at most `L` bits. -/
theorem usedCodes_le_of_symbolOfCode_eq_none {lens : List CodeLen} {L c : Nat} (hc : firstCode lens L ≤ c)
    (h : symbolOfCode lens L c = none) : usedCodes lens L ≤ c := by
  rw [symbolOfCode, if_pos hc, List.getElem?_eq_none_iff, length_symbolsOfLen] at h
  have hle : countLen lens L ≤ lens.countP fun l => l.toNat == L := by
    unfold countLen; split <;> omega
  rw [usedCodes]
  omega

/-- Where the codes of at most `L + fuel` bits use up the code space, `fuel` bits more always end in a code. -/
theorem huffFrom_isOk {lens : List CodeLen} {fuel L c : Nat} {bits : List Bool}
    (hfull : usedCodes lens (L + fuel) = 2 ^ (L + fuel)) (hused : usedCodes lens L ≤ c) (hc : c < 2 ^ L)
    (hlen : fuel ≤ bits.length) : ∃ s rest, huffFrom lens fuel (L + 1) c bits = .ok (s, rest) := by
  induction fuel generalizing L c bits with
  | zero => rw [Nat.add_zero] at hfull; omega
  | succ fuel ih =>
    cases bits with
    | nil => cases hlen
    | cons b bs =>
      rw [huffFrom]
      cases hs : symbolOfCode lens (L + 1) (2 * c + b.toNat) with
      | some s => exact ⟨s, bs, rfl⟩
      | none =>
        have hfirst : firstCode lens (L + 1) ≤ 2 * c + b.toNat := by rw [firstCode_succ]; omega
        have hb := b.toNat_lt
        refine ih ?_ (usedCodes_le_of_symbolOfCode_eq_none hfirst hs) ?_ (Nat.le_of_succ_le_succ hlen)
        · rwa [Nat.add_right_comm]
        · rw [Nat.pow_succ]; omega

/-- Settles O3: the bits of a code decode to its symbol alone (`codeBits_isPrefix_inj`), and 15 bits always end in a code of a
complete set (`huffFrom_isOk`). -/
theorem codesFormAPrefixCode : Obligations.CodesFormAPrefixCode := by
  unfold Obligations.CodesFormAPrefixCode
  refine ⟨fun lens s t => codeBits_isPrefix_inj, fun lens bits hcomplete hlen => ?_⟩
  have hfull := ((classify_spec lens).2.1 hcomplete).2
  obtain ⟨s, rest, hs⟩ : ∃ s rest, huff lens bits = .ok (s, rest) :=
    huffFrom_isOk hfull (Nat.le_of_eq (usedCodes_zero lens)) Nat.one_pos hlen
  obtain ⟨hbits, hlt, h0⟩ := huff_ok lens bits rest s hs
  exact ⟨s, rest, hs, hlt, h0, hbits⟩

end Sys2Proof

namespace Sys2Proof.Machine

open Sys2Proof

/-! ### The Kraft sum (30_encoding.md R102) -/

/-- The share of the `L`-bit code space that one symbol of length `l` takes. -/
def codeShare (L : Nat) (l : CodeLen) : Nat := if l.toNat = 0 ∨ L < l.toNat then 0 else 2 ^ (L - l.toNat)

/-- One more bit doubles the share of a symbol, and a symbol of the new length takes one code. -/
theorem codeShare_succ (L : Nat) (l : CodeLen) :
    codeShare (L + 1) l = 2 * codeShare L l + if l.toNat = L + 1 then 1 else 0 := by
  unfold codeShare
  by_cases hout : l.toNat = 0 ∨ L + 1 < l.toNat
  · rw [if_pos hout, if_pos (by omega), if_neg (by omega)]
  · rw [if_neg hout]
    by_cases he : l.toNat = L + 1
    · have hone : 2 ^ (L + 1 - l.toNat) = 1 :=
        (congrArg (2 ^ ·) (by omega : L + 1 - l.toNat = 0)).trans (Nat.pow_zero 2)
      rw [if_pos (by omega), if_pos he]
      exact hone
    · have hpow : 2 ^ (L + 1 - l.toNat) = 2 * 2 ^ (L - l.toNat) := by
        rw [Nat.succ_sub (by omega)]
        exact Nat.pow_succ'
      rw [if_neg (by omega), if_neg he, hpow, Nat.add_zero]

theorem sum_codeShare_succ (lens : List CodeLen) (L : Nat) :
    (lens.map (codeShare (L + 1))).sum = 2 * (lens.map (codeShare L)).sum + countLen lens (L + 1) := by
  rw [countLen, if_neg (Nat.succ_ne_zero L)]
  induction lens with
  | nil => rfl
  | cons l ls ih =>
    simp only [List.map_cons, List.sum_cons, List.countP_cons, ih, codeShare_succ, beq_iff_eq]
    omega

/-- The codes of at most `L` bits use the shares of all symbols. -/
theorem usedCodes_eq_sum (lens : List CodeLen) (L : Nat) : usedCodes lens L = (lens.map (codeShare L)).sum := by
  induction L with
  | zero =>
    have hnone : ∀ l : CodeLen, codeShare 0 l = 0 := fun l => if_pos (by omega)
    rw [usedCodes_zero]
    induction lens with
    | nil => rfl
    | cons l ls ih => rw [List.map_cons, List.sum_cons, hnone, Nat.zero_add, ← ih]
  | succ L ih => rw [usedCodes_succ, sum_codeShare_succ, ih]

/-- The Kraft sum is the part of the 15-bit code space in use. -/
theorem kraftSum_eq_usedCodes (lens : List CodeLen) : kraftSum lens = usedCodes lens 15 := by
  rw [usedCodes_eq_sum, kraftSum]
  refine congrArg List.sum (List.map_congr_left fun l _ => ?_)
  have h0 : l = 0 ↔ l.toNat = 0 := BitVec.toNat_inj.symm
  have h15 := l.isLt
  unfold codeShare
  by_cases hz : l.toNat = 0
  · rw [if_pos (h0.2 hz), if_pos (.inl hz)]
  · rw [if_neg (mt h0.1 hz), if_neg (by omega)]

/-- The classification of a set is decided by its Kraft sum. -/
theorem classify_kraftSum (lens : List CodeLen) :
    (classify lens = .overSubscribed → 32768 < kraftSum lens) ∧ (classify lens = .complete → kraftSum lens = 32768) ∧
    (classify lens = .incomplete → kraftSum lens < 32768) := by
  rw [kraftSum_eq_usedCodes]
  obtain ⟨hover, hcomplete, hincomplete⟩ := classify_spec lens
  refine ⟨fun h => ?_, fun h => (hcomplete h).2, fun h => (hincomplete h).2⟩
  obtain ⟨j, -, hj, hlt⟩ := hover h
  calc 32768 = 2 ^ j * 2 ^ (15 - j) := by rw [← Nat.pow_add, Nat.add_sub_cancel' hj]
    _ < usedCodes lens j * 2 ^ (15 - j) := Nat.mul_lt_mul_of_pos_right hlt (Nat.two_pow_pos _)
    _ ≤ usedCodes lens 15 := by
      have := usedCodes_mono lens j (15 - j)
      rwa [Nat.add_sub_cancel' hj] at this

theorem classify_iff_kraftSum (lens : List CodeLen) :
    (classify lens = .overSubscribed ↔ 32768 < kraftSum lens) ∧ (classify lens = .complete ↔ kraftSum lens = 32768) ∧
    (classify lens = .incomplete ↔ kraftSum lens < 32768) := by
  obtain ⟨hover, hcomplete, hincomplete⟩ := classify_kraftSum lens
  cases h : classify lens with
  | overSubscribed => have := hover h; simp; omega
  | complete => have := hcomplete h; simp; omega
  | incomplete => have := hincomplete h; simp; omega

/-! ### The loops of R103 -/

/-- The first loop gives each length its first code. -/
theorem nextCodes_getElem? (lens : List CodeLen) (fuel L k : Nat) (hk : k < fuel) :
    (nextCodes lens fuel (L + 1) (firstCode lens L))[k]? = some (firstCode lens (L + 1 + k)) := by
  induction fuel generalizing L k with
  | zero => omega
  | succ fuel ih =>
    have hcode : (firstCode lens L + countLen lens L) * 2 = firstCode lens (L + 1) := Nat.mul_comm ..
    rw [nextCodes]
    rw [Nat.add_sub_cancel, hcode]
    cases k with
    | zero => rfl
    | succ k => rw [List.getElem?_cons_succ, ih (L + 1) k (by omega), Nat.add_right_comm (L + 1) 1 k]; rfl

/-- `next[L]` after the first loop is the first code of length `L`. -/
theorem nextCodes_getD (lens : List CodeLen) {L : Nat} (hL : L ≤ 15) :
    (0 :: nextCodes lens 15 1 0).getD L 0 = firstCode lens L := by
  cases L with
  | zero => rfl
  | succ L =>
    have hget : (nextCodes lens 15 1 0)[L]? = some (firstCode lens (0 + 1 + L)) := nextCodes_getElem? lens 15 0 L hL
    rw [List.getD_cons_succ, List.getD_eq_getElem?_getD, hget, Option.getD_some, Nat.zero_add, Nat.add_comm]

theorem length_nextCodes (lens : List CodeLen) (fuel L code : Nat) : (nextCodes lens fuel L code).length = fuel := by
  induction fuel generalizing L code with
  | zero => rfl
  | succ fuel ih => exact congrArg (· + 1) (ih ..)

/-- An entry of a list after one entry was set. -/
theorem getD_set_of_lt {α : Type} {l : List α} {i : Nat} (hi : i < l.length) (a d : α) (j : Nat) :
    (l.set i a).getD j d = if i = j then a else l.getD j d := by
  rw [List.getD_eq_getElem?_getD, List.getElem?_set, List.getD_eq_getElem?_getD]
  by_cases h : i = j
  · subst h; simp [hi]
  · rw [if_neg h, if_neg h]

/-- One turn of the second loop: the symbol takes the next code of its length, which is then one more for that length alone. -/
theorem assignCodes_cons (l : CodeLen) (ls : List CodeLen) {next : List Nat} (hnext : next.length = 16) :
    ∃ next' : List Nat, next'.length = 16 ∧
      assignCodes (l :: ls) next = (if l = 0 then none else some (next.getD l.toNat 0)) :: assignCodes ls next' ∧
      ∀ L ≠ 0, next'.getD L 0 = next.getD L 0 + if l.toNat = L then 1 else 0 := by
  by_cases hl : l = 0
  · refine ⟨next, hnext, ?_, fun L hL => ?_⟩
    · rw [assignCodes, if_pos hl, if_pos hl]
    · have hne : l.toNat ≠ L := hl ▸ Ne.symm hL
      rw [if_neg hne, Nat.add_zero]
  · refine ⟨next.set l.toNat (next.getD l.toNat 0 + 1), List.length_set.trans hnext, ?_, fun L _ => ?_⟩
    · rw [assignCodes, if_neg hl, if_neg hl]
    · rw [getD_set_of_lt (hnext ▸ l.isLt)]
      split
      · rename_i h; rw [h]
      · rfl

/-- The second loop gives each symbol the next code of its length: the one it began with, plus one for every smaller symbol of
that length. -/
theorem assignCodes_getElem? (lens : List CodeLen) {next : List Nat} (hnext : next.length = 16) {s : Nat}
    (hs : s < lens.length) :
    (assignCodes lens next)[s]? = some (if lens.getD s 0 = 0 then none else
      some (next.getD (lens.getD s 0).toNat 0 + (lens.take s).countP fun l => l.toNat == (lens.getD s 0).toNat)) := by
  induction lens generalizing next s with
  | nil => cases hs
  | cons l ls ih =>
    obtain ⟨next', hnext', hcons, hmore⟩ := assignCodes_cons l ls hnext
    rw [hcons]
    cases s with
    | zero => rfl
    | succ s =>
      rw [List.getElem?_cons_succ, ih hnext' (Nat.lt_of_succ_lt_succ hs), List.getD_cons_succ, List.take_succ_cons,
        List.countP_cons]
      by_cases hz : ls.getD s 0 = 0
      · rw [if_pos hz, if_pos hz]
      · rw [if_neg hz, if_neg hz, hmore _ fun h => hz (BitVec.eq_of_toNat_eq h)]
        simp only [beq_iff_eq, Nat.add_assoc, Nat.add_comm (List.countP ..)]

/-- The loops of R103 give every symbol that has a code the one the decoder takes it to have. -/
theorem canonicalCodes_getElem? (lens : List CodeLen) {s : Nat} (hs : s < lens.length) :
    (canonicalCodes lens)[s]? = some (if lens.getD s 0 = 0 then none else some (codeOf lens s)) := by
  rw [canonicalCodes, assignCodes_getElem? lens (congrArg (· + 1) (length_nextCodes ..)) hs,
    nextCodes_getD lens (Nat.le_of_lt_succ (lens.getD s 0).isLt)]
  rfl

/-- Settles O4: the Kraft sum is the part of the code space in use (`kraftSum_eq_usedCodes`), which is what the loop of R102
tests, and the loops of R103 count as `codeOf` does (`canonicalCodes_getElem?`). -/
theorem canonicalCodesOfASet : Obligations.CanonicalCodesOfASet := by
  unfold Obligations.CanonicalCodesOfASet
  intro lens
  obtain ⟨hover, hcomplete, hincomplete⟩ := classify_iff_kraftSum lens
  exact ⟨hover, hcomplete, hincomplete, fun s => canonicalCodes_getElem? lens⟩

end Sys2Proof.Machine


/-! PROOFS. The zlib header and the description of a dynamic block: the tests of ZHDR, DYNHDR and CLENS; O11, O16, O17. -/

namespace Sys2Proof.Machine

open Sys2Proof

/-! ### The zlib header (40_zlib_container.md R130) -/

/-- `FDICT` is bit 5 of `FLG` (R91). -/
theorem zlibDict_eq_true_iff (flg : Byte) : zlibDict flg = true ↔ flg.toNat / 32 % 2 = 1 := by
  rw [zlibDict, BitVec.getLsbD, Nat.testBit_eq_decide_div_mod_eq, decide_eq_true_iff]

/-- With its 16 bits there, `ZHDR` makes the four tests in the order of R130. -/
theorem exec_zhdr_of_le {cmf flg : Byte} {s : State} (hfit : s.inf.bitpos + 16 ≤ 8 * s.inf.inLen) :
    exec (.zhdr cmf flg) s = .next { s with inf :=
      if cmf.toNat % 16 ≠ 8 then s.inf.stopped 15
      else if 7 < cmf.toNat / 16 then s.inf.stopped 15
      else if (cmf.toNat * 256 + flg.toNat) % 31 ≠ 0 then s.inf.stopped 15
      else if (zlibDict flg) then s.inf.stopped 15
      else { s.inf.consumed 16 with phase := .blkhdr } } :=
  congrArg Host.Outcome.next (onInf_take_of_le s 16 _ hfit)

/-- Settles O11: the header is accepted exactly when none of the four tests fails. -/
theorem zlibHeaderCheck : Obligations.ZlibHeaderCheck := by
  unfold Obligations.ZlibHeaderCheck
  intro cmf flg s
  have hdict := zlibDict_eq_true_iff flg
  refine ⟨fun hfit hcm hinfo hmul hd => ?_, fun hfit hbad => ?_, fun hshort => ?_⟩
  · rw [exec_zhdr_of_le hfit, if_neg (not_not_intro hcm), if_neg (by omega), if_neg (not_not_intro hmul),
      if_neg (mt hdict.1 (by omega))]
  · rw [exec_zhdr_of_le hfit]
    by_cases hcm : cmf.toNat % 16 = 8
    · by_cases hinfo : 7 < cmf.toNat / 16
      · rw [if_neg (not_not_intro hcm), if_pos hinfo]
      · by_cases hmul : (cmf.toNat * 256 + flg.toNat) % 31 = 0
        · have hd : flg.toNat / 32 % 2 ≠ 0 := fun hd => hbad ⟨hcm, Nat.le_of_not_lt hinfo, hmul, hd⟩
          rw [if_neg (not_not_intro hcm), if_neg hinfo, if_neg (not_not_intro hmul), if_pos (hdict.2 (by omega))]
        · rw [if_neg (not_not_intro hcm), if_neg hinfo, if_pos hmul]
    · rw [if_pos hcm]
  · exact congrArg Host.Outcome.next (onInf_take_of_lt s 16 _ hshort)

/-! ### The dynamic-block header (41_blocks_and_tables.md R156) -/

/-- Settles O16: the counts announced decide between the two outcomes. -/
theorem dynamicHeaderCounts : Obligations.DynamicHeaderCounts := by
  unfold Obligations.DynamicHeaderCounts
  intro hlit hdist hclen s
  have hrun : s.inf.bitpos + 14 ≤ 8 * s.inf.inLen →
      exec (.dynhdr hlit hdist hclen) s = .next { s with inf :=
        if 286 < hlit.toNat + 257 ∨ 30 < hdist.toNat + 1 then s.inf.stopped 16
        else { s.inf.consumed 14 with
          nlen := hlit.toNat + 257, ndist := hdist.toNat + 1, ncode := hclen.toNat + 4
          llLen := List.replicate 288 0, dLen := List.replicate 32 0, clLen := List.replicate 19 0
          lidx := 0, phase := .dynclen } } :=
    fun hfit => congrArg Host.Outcome.next (onInf_take_of_le s 14 _ hfit)
  refine ⟨fun hfit hlit hdist => ?_, fun hfit hbad => ?_, fun hshort => ?_⟩
  · rw [hrun hfit, if_neg (by omega)]
  · rw [hrun hfit, if_pos hbad]
  · exact congrArg Host.Outcome.next (onInf_take_of_lt s 14 _ hshort)

/-! ### The code-length code (41_blocks_and_tables.md R157) -/

/-- Lengths put in places: each pair is a place and the length put there. -/
def putLens : List (Nat × BitVec 3) → List CodeLen → List CodeLen
  | [], cl => cl
  | p :: ps, cl => putLens ps (cl.set p.1 (p.2.setWidth 4))

/-- The transmitted lengths are put in the places of `CLORD` (R95). -/
theorem placeLens_eq_putLens (cl : List CodeLen) (lens : List (BitVec 3)) :
    placeLens cl lens = putLens (clOrder.zip lens) cl := by
  unfold placeLens
  generalize clOrder.zip lens = ps
  induction ps generalizing cl with
  | nil => rfl
  | cons p ps ih => exact ih _

@[simp] theorem length_putLens (ps : List (Nat × BitVec 3)) (cl : List CodeLen) :
    (putLens ps cl).length = cl.length := by
  induction ps generalizing cl with
  | nil => rfl
  | cons p ps ih => rw [putLens, ih, List.length_set]

/-- Putting lengths in places leaves every other place as it was. -/
theorem putLens_getD_other {ps : List (Nat × BitVec 3)} {j : Nat} (hj : ∀ p ∈ ps, p.1 ≠ j) (cl : List CodeLen) :
    (putLens ps cl).getD j 0 = cl.getD j 0 := by
  induction ps generalizing cl with
  | nil => rfl
  | cons p ps ih =>
    rw [putLens, ih fun q hq => hj q (List.mem_cons_of_mem p hq), List.getD_eq_getElem?_getD,
      List.getElem?_set_ne (hj p List.mem_cons_self), List.getD_eq_getElem?_getD]

/-- Lengths put in distinct places stand there. -/
theorem putLens_getD {ps : List Nat} (hps : ps.Nodup) (vs : List (BitVec 3)) {cl : List CodeLen}
    (hin : ∀ p ∈ ps, p < cl.length) {k : Nat} (hk : k < ps.length) :
    (putLens (ps.zip vs) cl).getD (ps.getD k 0) 0 =
      if k < vs.length then (vs.getD k 0).setWidth 4 else cl.getD (ps.getD k 0) 0 := by
  induction ps generalizing vs cl k with
  | nil => cases hk
  | cons p ps ih =>
    obtain ⟨hp, hps⟩ := List.nodup_cons.1 hps
    cases vs with
    | nil => rfl
    | cons v vs =>
      have hlt : p < cl.length := hin p List.mem_cons_self
      rw [List.zip_cons_cons, putLens]
      cases k with
      | zero =>
        have hother : ∀ q ∈ ps.zip vs, q.1 ≠ p := fun _ hq hqp => hp (hqp ▸ (List.of_mem_zip hq).1)
        rw [List.getD_cons_zero, putLens_getD_other hother, getD_set_of_lt hlt, if_pos rfl]
        rfl
      | succ k =>
        have hk : k < ps.length := Nat.lt_of_succ_lt_succ hk
        have hne : p ≠ ps.getD k 0 := by
          rw [List.getD_eq_getElem?_getD, List.getElem?_eq_getElem hk, Option.getD_some]
          exact fun he => hp (he ▸ List.getElem_mem hk)
        have hin' : ∀ q ∈ ps, q < (cl.set p (v.setWidth 4)).length := fun q hq => by
          rw [List.length_set]
          exact hin q (List.mem_cons_of_mem p hq)
        rw [List.getD_cons_succ, ih hps vs hin' hk, getD_set_of_lt hlt, if_neg hne]
        simp only [List.length_cons, Nat.add_lt_add_iff_right, List.getD_cons_succ]

/-- The places of `CLORD` are the 19 symbols, each once (R95), so what stands in them is the whole array. -/
theorem placeLens_eq {cl cl' : List CodeLen} {lens : List (BitVec 3)} (hcl : cl.length = 19) (hcl' : cl'.length = 19)
    (h : ∀ k < 19, cl'.getD (clOrder.getD k 0) 0 =
      if k < lens.length then (lens.getD k 0).setWidth 4 else cl.getD (clOrder.getD k 0) 0) : placeLens cl lens = cl' := by
  have hbelow : ∀ p ∈ clOrder, p < 19 := by decide
  have hplaces : ∀ j < 19, ∃ k < 19, clOrder.getD k 0 = j := by decide
  rw [placeLens_eq_putLens]
  refine lens_ext 19 ((length_putLens ..).trans hcl) hcl' fun j hj => ?_
  obtain ⟨k, hk, rfl⟩ := hplaces j hj
  rw [h k hk, putLens_getD (by decide) lens (hcl ▸ hbelow) hk]

/-- Settles O17: the lengths in their places are `cl` (`placeLens_eq`), and a set is complete exactly when its Kraft sum is
32768 (`classify_iff_kraftSum`). -/
theorem codeLengthCodeIsChecked : Obligations.CodeLengthCodeIsChecked := by
  unfold Obligations.CodeLengthCodeIsChecked
  intro lens s cl _ hlen hcl hplace
  obtain ⟨-, hcomplete, -⟩ := classify_iff_kraftSum cl
  have hrun : s.inf.bitpos + 3 * lens.length ≤ 8 * s.inf.inLen →
      exec (.clens lens) s = .next { s with inf :=
        if ¬ (classify cl = .complete) then s.inf.stopped 16
        else { s.inf.consumed (3 * lens.length) with clLen := cl, phase := .dynlens } } := by
    rw [← placeLens_eq hlen hcl hplace]
    exact fun hfit => congrArg Host.Outcome.next (onInf_take_of_le s (3 * lens.length) _ hfit)
  refine ⟨fun hfit hsum => ?_, fun hfit hsum => ?_, fun hshort => ?_⟩
  · rw [hrun hfit, if_neg (not_not_intro (hcomplete.2 hsum))]
  · rw [hrun hfit, if_pos (mt hcomplete.1 hsum)]
  · exact congrArg Host.Outcome.next (onInf_take_of_lt s (3 * lens.length) _ hshort)

end Sys2Proof.Machine


/-! PROOFS. The checksum of a chunk: INIT, BYTE for every byte, CHECK; O27. -/

namespace Sys2Proof.Machine

open Sys2Proof

/-! ### CRC while a chunk is fed (43_crc32.md R220 to R223) -/

/-- The first four bytes of a chunk as a number, the first byte on top, missing ones 0 (R222). -/
def chunkTag (p : List Byte) : Nat :=
  (p.getD 0 0).toNat * 2 ^ 24 + (p.getD 1 0).toNat * 2 ^ 16 + (p.getD 2 0).toNat * 2 ^ 8 + (p.getD 3 0).toNat

/-- CRC accumulates a chunk of which the bytes `p` were fed. -/
structure Crc.Fed (p : List Byte) (u : Crc) : Prop where
  cstate : u.cstate = .accum
  cnt : u.cnt = p.length
  reg : u.reg = p.foldl crcByte 0xFFFFFFFF
  tag : u.tag.toNat = chunkTag p

/-- A byte put below the bits of a word in use is added to it. -/
theorem toNat_or_byte_shiftLeft {w : Word} {k q : Nat} (b : Byte) (hk : k ≤ 24) (hw : w.toNat = q * 2 ^ (k + 8)) :
    (w ||| (b.setWidth 32 <<< k)).toNat = w.toNat + b.toNat * 2 ^ k := by
  have hb := b.isLt
  have hlt : b.toNat * 2 ^ k < 2 ^ (k + 8) := by
    rw [Nat.add_comm, Nat.pow_add]
    exact Nat.mul_lt_mul_of_pos_right hb (Nat.two_pow_pos k)
  have hfit : b.toNat * 2 ^ k < 2 ^ 32 := Nat.lt_of_lt_of_le hlt (Nat.pow_le_pow_right (by decide) (by omega))
  have hshift : (b.setWidth 32 <<< k).toNat = b.toNat * 2 ^ k := by
    rw [BitVec.toNat_shiftLeft, BitVec.toNat_setWidth, Nat.shiftLeft_eq, Nat.mod_eq_of_lt (a := b.toNat) (by omega),
      Nat.mod_eq_of_lt hfit]
  rw [BitVec.toNat_or, hshift, hw, ← Nat.shiftLeft_eq, Nat.shiftLeft_add_eq_or_of_lt hlt]

/-- While fewer than four bytes were fed, the tag has only 0 bits at and below the next byte's place, where that byte goes. -/
theorem chunkTag_append_of_lt {p : List Byte} (hp : p.length < 4) (b : Byte) :
    ∃ q, chunkTag p = q * 2 ^ (8 * (3 - p.length) + 8) ∧
      chunkTag (p ++ [b]) = chunkTag p + b.toNat * 2 ^ (8 * (3 - p.length)) := by
  rcases p with _ | ⟨x, _ | ⟨y, _ | ⟨z, _ | ⟨_, _⟩⟩⟩⟩
  · exact ⟨0, by simp [chunkTag]⟩
  · exact ⟨x.toNat, by simp [chunkTag]⟩
  · exact ⟨x.toNat * 2 ^ 8 + y.toNat, by simp [chunkTag]; omega⟩
  · exact ⟨x.toNat * 2 ^ 16 + y.toNat * 2 ^ 8 + z.toNat, by simp [chunkTag]; omega⟩
  · exact absurd hp (by simp)

/-- The bytes after the fourth are not in the tag. -/
theorem chunkTag_append_of_ge {p : List Byte} (hp : 4 ≤ p.length) (b : Byte) : chunkTag (p ++ [b]) = chunkTag p := by
  have hget : ∀ j < 4, (p ++ [b]).getD j 0 = p.getD j 0 := fun j hj => by
    rw [List.getD_eq_getElem?_getD, List.getElem?_append_left (by omega), List.getD_eq_getElem?_getD]
  simp only [chunkTag, hget 0 (by decide), hget 1 (by decide), hget 2 (by decide), hget 3 (by decide)]

/-- `INIT` outside `FAULT` begins a chunk. -/
theorem Crc.fed_init {u : Crc} (h : u.cstate ≠ .fault) : u.init.Fed [] := by
  rw [Crc.init, if_neg h]
  exact ⟨rfl, rfl, rfl, rfl⟩

/-- `BYTE` feeds one byte more. -/
theorem Crc.Fed.byte {p : List Byte} {u : Crc} (h : u.Fed p) (b : Byte) : (u.byte b).Fed (p ++ [b]) := by
  rw [Crc.byte, if_neg (not_not_intro h.cstate)]
  refine ⟨h.cstate, ?_, ?_, ?_⟩
  · simp [h.cnt]
  · simp [h.reg]
  · rw [h.cnt]
    by_cases hp : p.length < 4
    · obtain ⟨q, hq, happend⟩ := chunkTag_append_of_lt hp b
      rw [if_pos hp, toNat_or_byte_shiftLeft b (by omega) (h.tag.trans hq), h.tag, happend]
    · rw [if_neg hp, h.tag, chunkTag_append_of_ge (by omega)]

/-- `CHECK` compares the checksum of the bytes fed. -/
theorem Crc.Fed.cstate_check {p : List Byte} {u : Crc} (h : u.Fed p) (e : Word) :
    (u.check e).cstate = if e = crc32 p then .matched else .fault := by
  have hcrc : u.reg ^^^ 0xFFFFFFFF = crc32 p := congrArg (· ^^^ 0xFFFFFFFF) h.reg
  rw [Crc.check, if_neg (not_not_intro h.cstate), hcrc]
  by_cases he : e = crc32 p
  · rw [if_pos he.symm, if_pos he]
  · rw [if_neg (Ne.symm he), if_neg he]
    rfl

/-- Feeding a sequence of bytes writes CRC alone, and CRC holds the bytes fed before and then the sequence. -/
theorem crcFeed_fed {p : List Byte} (m : List Byte) {s : State} (h : s.crc.Fed p) :
    ∃ u : Crc, crcFeed m s = some { s with crc := u } ∧ u.Fed (p ++ m) := by
  induction m generalizing p s with
  | nil => exact ⟨s.crc, rfl, by rwa [List.append_nil]⟩
  | cons b m ih =>
    obtain ⟨u, hfeed, hfed⟩ := ih (s := s.onCrc (Crc.byte b)) (h.byte b)
    exact ⟨u, hfeed, by rwa [List.append_assoc] at hfed⟩

/-- Settles O27: `INIT` begins a chunk, each `BYTE` feeds it (`crcFeed_fed`), and `CHECK` compares its checksum. -/
theorem crcOfAChunk : Obligations.CrcOfAChunk := by
  unfold Obligations.CrcOfAChunk
  intro m e s t hs ht
  cases ht
  obtain ⟨u, hfeed, hfed⟩ := crcFeed_fed m (s := s.onCrc Crc.init) (Crc.fed_init hs)
  exact ⟨_, _, hfeed, hfed.cnt, hfed.tag, rfl, hfed.cstate_check e, rfl, rfl⟩

end Sys2Proof.Machine

/-! PROOFS. The zlib trailer's verdict; O12. -/

namespace Sys2Proof.Machine

open Sys2Proof

/-! ### The zlib trailer (40_zlib_container.md R131) -/

/-- `INF_ADLER` as a number: `s2` is its upper half (R132). -/
theorem toNat_append_sums (s1 s2 : BitVec 16) : (s2 ++ s1).toNat = s2.toNat * 65536 + s1.toNat := by
  rw [BitVec.toNat_append, ← Nat.shiftLeft_add_eq_or_of_lt s1.isLt, Nat.shiftLeft_eq]

/-- A trailer is the checksum exactly when its number is. -/
theorem ne_append_sums_iff (t : Word) (s1 s2 : BitVec 16) :
    t ≠ s2 ++ s1 ↔ t.toNat ≠ s2.toNat * 65536 + s1.toNat := by
  rw [← toNat_append_sums]
  exact not_congr BitVec.toNat_inj.symm

/-- Settles O12: a trailer that is not all there faults, and otherwise the tests are those of R131, in its order. -/
theorem trailerVerdict : Obligations.TrailerVerdict := by
  unfold Obligations.TrailerVerdict
  intro t s
  rw [← add_padBits]
  by_cases hshort : 8 * s.inf.inLen < s.inf.bitpos + (padBits s.inf.bitpos + 32)
  · rw [if_pos hshort]
    exact congrArg Host.Outcome.next (onInf_take_of_lt s _ _ hshort)
  · rw [if_neg hshort]
    simp only [← ne_append_sums_iff]
    exact congrArg Host.Outcome.next (onInf_take_of_le s _ _ (Nat.le_of_not_lt hshort))

end Sys2Proof.Machine

/-! PROOFS. A literal and the end of a block; O21. -/

namespace Sys2Proof.Machine

open Sys2Proof

/-! ### Symbols of one code (42_symbols_lz77.md R192, R193) -/

/-- A literal has no extra bits (R97). -/
theorem Inf.symBits_literal (u : Inf) (v : Byte) : u.symBits v.toNat = (u.llLen.getD v.toNat 0).toNat := by
  have h : lenExtra v.toNat = 0 := if_pos (.inl (by omega))
  rw [Inf.symBits, h, Nat.add_zero]

/-- Emitting one byte is an output of that byte (R190). -/
theorem Inf.emitted_singleton (b : Byte) (u : Inf) : Inf.emitted [b] u (u.emit b) :=
  Inf.emitted_emit [] b u u (Inf.emitted_nil u)

/-- Settles O21: with its code there, `LIT` is `Inf.emit` and `EOB` is `Inf.blockEnd`. -/
theorem literalAndEndOfBlock : Obligations.LiteralAndEndOfBlock := by
  unfold Obligations.LiteralAndEndOfBlock
  refine ⟨fun v s hfit => ⟨s.inf.emit v, Inf.emitted_singleton v s.inf, ?_⟩, fun s hfit => ?_⟩
  · rw [← Inf.symBits_literal] at hfit ⊢
    exact congrArg Host.Outcome.next (onInf_take_of_le s _ (Inf.emit v) hfit)
  · exact congrArg Host.Outcome.next (onInf_take_of_le s (s.inf.symBits 256) Inf.blockEnd hfit)

end Sys2Proof.Machine

/-! PROOFS. A completed decode is verified: only the trailer leads to `DONE`, and its bytes are the last four of `IN`; O55. -/

namespace Sys2Proof.Machine

open Sys2Proof

/-! ### Bytes of the stream (20_memory.md R61 to R63) -/

/-- Stream bits in two parts. -/
theorem Inf.bitsFrom_add (u : Inf) (k m n : Nat) : u.bitsFrom k (m + n) = u.bitsFrom k m ++ u.bitsFrom (k + m) n := by
  induction m generalizing k with
  | zero => rw [Nat.zero_add]; rfl
  | succ m ih =>
    rw [Nat.add_right_comm, Inf.bitsFrom, ih, Inf.bitsFrom, List.cons_append, Nat.add_right_comm, Nat.add_assoc]

/-- Stream bits within one byte are a field of that byte. -/
theorem Inf.bitsFrom_within (u : Inf) (a : Nat) {r n : Nat} (h : r + n ≤ 8) :
    u.bitsFrom (8 * a + r) n = fieldBits n ((u.inByte a).toNat / 2 ^ r) := by
  induction n generalizing r with
  | zero => rfl
  | succ n ih =>
    have hbit : u.bitAt (8 * a + r) = ((u.inByte a).toNat / 2 ^ r % 2 == 1) := by
      rw [Inf.bitAt, show (8 * a + r) / 8 = a by omega, show (8 * a + r) % 8 = r by omega, BitVec.getLsbD,
        Nat.testBit_eq_decide_div_mod_eq]
      rfl
    rw [Inf.bitsFrom, fieldBits, hbit, Nat.add_assoc, ih (by omega), Nat.div_div_eq_div_mul, Nat.pow_succ]

/-- From a byte boundary the stream is that byte, then the stream from the next one. -/
theorem Inf.bitsFrom_byte (u : Inf) (a n : Nat) :
    u.bitsFrom (8 * a) (8 + n) = fieldBits 8 (u.inByte a).toNat ++ u.bitsFrom (8 * (a + 1)) n := by
  have h := u.bitsFrom_within a (r := 0) (n := 8) (by decide)
  rw [Nat.add_zero, Nat.pow_zero, Nat.div_one] at h
  rw [Inf.bitsFrom_add, h, Nat.mul_succ]

/-- Four bytes from a byte boundary, read most significant byte first. -/
theorem Inf.takeBigEndian_bitsFrom (u : Inf) (a n : Nat) :
    takeBigEndian (u.bitsFrom (8 * a) (8 + (8 + (8 + (8 + n))))) =
      some (BitVec.ofNat 32 ((u.inByte a).toNat * 2 ^ 24 + (u.inByte (a + 1)).toNat * 2 ^ 16 +
        (u.inByte (a + 2)).toNat * 2 ^ 8 + (u.inByte (a + 3)).toNat), u.bitsFrom (8 * (a + 4)) n) := by
  simp only [Inf.bitsFrom_byte, takeBigEndian, takeBits_fieldBits_toNat, Option.bind_eq_bind, Option.bind_some]

/-- A trailer that ends with `IN` is the last four bytes of `IN`, the most significant first (R101). -/
theorem Inf.decode_trailer_bytes {u : Inf} {t : Word} {rest : List Bool}
    (hend : (u.bitpos + 7) / 8 * 8 + 32 = 8 * u.inLen)
    (hd : decode (.trailer (padBits u.bitpos)) u.stream = .ok (.ztrailer t, rest)) :
    t.toNat = (u.inByte (u.inLen - 4)).toNat * 2 ^ 24 + (u.inByte (u.inLen - 3)).toNat * 2 ^ 16 +
      (u.inByte (u.inLen - 2)).toNat * 2 ^ 8 + (u.inByte (u.inLen - 1)).toNat := by
  obtain ⟨a, ha⟩ : ∃ a, u.inLen = a + 4 := ⟨u.inLen - 4, by omega⟩
  have hpad : u.bitpos + padBits u.bitpos = 8 * a := by have := add_padBits u.bitpos; omega
  have hstream : u.stream.drop (padBits u.bitpos) = u.bitsFrom (8 * a) (8 + (8 + (8 + (8 + 0)))) := by
    rw [Inf.stream, Inf.bitsFrom_drop, hpad, show 8 * u.inLen - u.bitpos - padBits u.bitpos = 32 by omega]
  rw [decode, orEnd_eq_ok_iff, hstream, Inf.takeBigEndian_bitsFrom] at hd
  cases hd
  have h0 := (u.inByte a).isLt
  have h1 := (u.inByte (a + 1)).isLt
  have h2 := (u.inByte (a + 2)).isLt
  have h3 := (u.inByte (a + 3)).isLt
  rw [ha, BitVec.toNat_ofNat]
  exact Nat.mod_eq_of_lt (by omega)

/-! ### Only the trailer leads to `DONE` (10_state.md R22, 40_zlib_container.md R131) -/

/-- An element that reads bits first leads to `DONE` only by what follows the bits: `UnexpectedEof` leads to `FAULT`. -/
theorem Inf.take_phase_ne_done {n : Nat} {k : Inf → Inf} {u : Inf} (hk : (k (u.advance n)).phase ≠ .done) :
    (u.take n k).phase ≠ .done := by
  obtain ⟨-, he⟩ | ⟨-, he⟩ := Inf.take_cases n k u <;> rw [he]
  · exact hk
  · nofun

/-- The end of a block is followed by a block header or the trailer. -/
theorem Inf.blockEnd_phase_ne_done (u : Inf) : u.blockEnd.phase ≠ .done := by
  rw [Inf.blockEnd]
  split <;> nofun

/-- Table completion leads to `SYM` or `FAULT`. -/
theorem Inf.completeTables_phase_ne_done (p : Policy) (u0 u : Inf) : (Inf.completeTables p u0 u).phase ≠ .done := by
  obtain ⟨-, -, -, -, he⟩ | he := Inf.completeTables_cases p u0 u <;> rw [he] <;> nofun

/-- Nor does the end of a code-length element lead to `DONE`. -/
theorem Inf.endLens_phase_ne_done {p : Policy} {u0 u : Inf} (h : u.phase ≠ .done) : (Inf.endLens p u0 u).phase ≠ .done := by
  obtain ⟨-, he⟩ | ⟨-, he⟩ := Inf.endLens_cases p u0 u <;> rw [he]
  · exact h
  · exact Inf.completeTables_phase_ne_done p u0 u

section NotDone

variable {s t : State} (hs : s.inf.phase ≠ .done)

include hs

/-- No code-length element leads to `DONE`. -/
theorem exec_codeLength_phase_ne_done {i : Instr} {sym k x : Nat} (hi : i.coded = some ⟨.codeLength, sym, k, x⟩)
    (he : exec i s = .next t) : t.inf.phase ≠ .done := by
  have happend : ∀ (n : Nat) (v : CodeLen) (u : Inf), u.phase = s.inf.phase → (u.appendLens n v).phase ≠ .done := by
    intro n v u hu
    rw [(Inf.appendLens_regs n v u).2.2.2, hu]
    exact hs
  rw [(exec_codeLength i sym k x s hi).2.2.2] at he
  cases he
  rw [State.onInf_inf]
  split
  · exact Inf.take_phase_ne_done (Inf.endLens_phase_ne_done (happend _ _ _ rfl))
  · split
    · refine Inf.take_phase_ne_done ?_
      split
      · nofun
      · refine Inf.take_phase_ne_done ?_
        split
        · nofun
        · exact Inf.endLens_phase_ne_done (happend _ _ _ rfl)
    · refine Inf.take_phase_ne_done ?_
      split
      · nofun
      · exact Inf.endLens_phase_ne_done hs

/-- No literal/length symbol leads to `DONE`. -/
theorem exec_literalLength_phase_ne_done {i : Instr} {sym k x : Nat} (hi : i.coded = some ⟨.literalLength, sym, k, x⟩)
    (he : exec i s = .next t) : t.inf.phase ≠ .done := by
  rw [(exec_literalLength i sym k x s hi).2.2.2] at he
  cases he
  rw [State.onInf_inf]
  split
  · exact Inf.take_phase_ne_done hs
  · split
    · exact Inf.take_phase_ne_done (Inf.blockEnd_phase_ne_done _)
    · split
      · exact Inf.take_phase_ne_done hs
      · exact Inf.take_phase_ne_done nofun

/-- No distance symbol leads to `DONE`. -/
theorem exec_distance_phase_ne_done {i : Instr} {d k x : Nat} (hi : i.coded = some ⟨.distance, d, k, x⟩)
    (he : exec i s = .next t) : t.inf.phase ≠ .done := by
  rw [(exec_distance i d k x s hi).2.2.2] at he
  cases he
  rw [State.onInf_inf]
  split
  · refine Inf.take_phase_ne_done ?_
    dsimp only
    split
    · nofun
    · rw [(Inf.copyMatch_regs ..).2]
      exact hs
  · exact Inf.take_phase_ne_done nofun

/-- An instruction that leads to `DONE` is a trailer. -/
theorem ztrailer_of_exec_done {i : Instr} (he : exec i s = .next t) (ht : t.inf.phase = .done) :
    ∃ w, i = .ztrailer w := by
  cases hc : i.coded with
  | some c =>
    obtain ⟨a, sym, k, x⟩ := c
    cases a with
    | codeLength => exact absurd ht (exec_codeLength_phase_ne_done hs hc he)
    | literalLength => exact absurd ht (exec_literalLength_phase_ne_done hs hc he)
    | distance => exact absurd ht (exec_distance_phase_ne_done hs hc he)
  | none =>
    cases i with
    | ztrailer w => exact ⟨w, rfl⟩
    | zhdr cmf flg =>
      cases he
      refine absurd ht (Inf.take_phase_ne_done ?_)
      repeat' split
      all_goals nofun
    | blkStored | blkFixed | blkDyn | blkRsv => cases he; exact absurd ht (Inf.take_phase_ne_done nofun)
    | stored len nlen =>
      cases he
      refine absurd ht (Inf.take_phase_ne_done ?_)
      repeat' split
      · nofun
      · nofun
      · exact Inf.blockEnd_phase_ne_done _
    | dynhdr | clens =>
      cases he
      refine absurd ht (Inf.take_phase_ne_done ?_)
      split <;> nofun
    | tables => cases he; exact absurd ht (Inf.completeTables_phase_ne_done _ _ _)
    | infStart =>
      obtain ⟨-, -, -, hex⟩ | ⟨-, hex⟩ := execInfStart_cases s <;> cases hex.symm.trans he
      · cases ht
      · exact absurd ht hs
    | infReset => cases he; cases ht
    | defStart =>
      obtain ⟨-, -, -, hex⟩ | ⟨-, hex⟩ := execDefStart_cases s <;> cases hex.symm.trans he <;> exact absurd ht hs
    | ft0 | ft1 | ft2 | ft3 | ft4 | ftInvalid | defEnd | init | byte | check | crcReset | defReset =>
      cases he; exact absurd ht hs
    | _ => cases hc

end NotDone

/-- No register write is a trailer. -/
theorem mkCommand_ne_ztrailer (u : UnitId) (n v : Nat) (w : Word) : mkCommand u n v ≠ some (.ztrailer w) := by
  unfold mkCommand
  repeat' split
  all_goals nofun

/-- A trailer is decoded in the trailer's context alone. -/
theorem trailer_of_decode_ztrailer {c : Ctx} {w : Word} {bits rest : List Bool}
    (hd : decode c bits = .ok (.ztrailer w, rest)) : ∃ pad, c = .trailer pad := by
  cases c with
  | trailer pad => exact ⟨pad, rfl⟩
  | dynclen n =>
    simp only [decode, orEnd_eq_ok_iff, Option.bind_eq_bind, Option.bind_eq_some_iff, Option.some.injEq,
      Prod.mk.injEq, reduceCtorEq, false_and, and_false, exists_false] at hd
  | reg u n =>
    unfold decode at hd
    dsimp only at hd
    repeat' split at hd
    · cases hd
    · rename_i i hi
      cases hd
      exact absurd hi (mkCommand_ne_ztrailer u n _ w)
    · cases hd
  | _ =>
    obtain ⟨-, henc, -⟩ := encodeOfDecode _ _ _ _ (fun _ _ h => by cases h) (fun _ h => by cases h) hd
    cases henc

/-- The trailer's context is that of the aligned cursor, with no match half done. -/
theorem Inf.ctx_eq_trailer {u : Inf} {pad : Nat} (h : u.ctx = some (.trailer pad)) :
    u.matchLen = none ∧ pad = padBits u.bitpos := by
  unfold Inf.ctx at h
  split at h
  · cases h
  · rename_i hm
    refine ⟨Option.not_isSome_iff_eq_none.1 hm, ?_⟩
    repeat' split at h
    all_goals cases h
    rfl

/-- What leads to `DONE` is a trailer, fetched and run with no match half done. -/
theorem ztrailer_of_infFetchRun_done {s t : State} (hs : s.inf.phase ≠ .done) (he : infFetchRun s = .next t)
    (ht : t.inf.phase = .done) :
    s.inf.matchLen = none ∧ ∃ w rest, decode (.trailer (padBits s.inf.bitpos)) s.inf.stream = .ok (.ztrailer w, rest) ∧
      exec (.ztrailer w) s = .next t := by
  unfold infFetchRun at he
  split at he
  · cases he; exact absurd ht hs
  · rename_i c hc
    split at he
    · rename_i i rest hd
      obtain ⟨w, rfl⟩ := ztrailer_of_exec_done hs he ht
      obtain ⟨pad, rfl⟩ := trailer_of_decode_ztrailer hd
      obtain ⟨hm, rfl⟩ := Inf.ctx_eq_trailer hc
      exact ⟨hm, w, rest, hd, he⟩
    · cases he
      revert ht
      rw [State.onInf_inf, Inf.fetchFault]
      split <;> nofun

/-- A trailer that leads to `DONE` passed every test: it is all of `IN` that was left, it is the checksum, and the output has
the expected length. -/
theorem exec_ztrailer_done {w : Word} {s t : State} (he : exec (.ztrailer w) s = .next t)
    (ht : t.inf.phase = .done) :
    (s.inf.bitpos + 7) / 8 * 8 + 32 = 8 * s.inf.inLen ∧ w.toNat = s.inf.s2.toNat * 65536 + s.inf.s1.toNat ∧
    s.inf.outCount = s.inf.expectLen ∧
    t.inf = { s.inf with
      elemStart := s.inf.bitpos, bitpos := 8 * s.inf.inLen, phase := .done, flags := .ended } := by
  obtain rfl := Host.Outcome.next.inj ((trailerVerdict w s).symm.trans he)
  dsimp only at ht ⊢
  split at ht
  · cases ht
  split at ht
  · cases ht
  split at ht
  · cases ht
  split at ht
  · cases ht
  split at ht
  · cases ht
  rename_i hfit hsum hshort hlong hleft
  have hend : (s.inf.bitpos + 7) / 8 * 8 + 32 = 8 * s.inf.inLen := by omega
  refine ⟨hend, Decidable.not_not.1 hsum, by omega, ?_⟩
  rw [if_neg hfit, if_neg hsum, if_neg hshort, if_neg hlong, if_neg hleft, hend]
  rfl

/-- A turn that leads to `DONE` is the fetch and run of a trailer: the second half of a match leads elsewhere. -/
theorem ztrailer_of_infTurn_done {s t : State} (hs : s.inf.phase ≠ .done) (he : infTurn s = .next t)
    (ht : t.inf.phase = .done) :
    ∃ w rest, decode (.trailer (padBits s.inf.bitpos)) s.inf.stream = .ok (.ztrailer w, rest) ∧
      exec (.ztrailer w) s = .next t := by
  unfold infTurn at he
  split at he
  · rename_i r hr
    split at he
    · rename_i hhalf
      have hrd : r.inf.phase ≠ .done := fun hrd => by
        obtain ⟨hm, w, -, -, hex⟩ := ztrailer_of_infFetchRun_done hs hr hrd
        obtain ⟨-, -, -, hinf⟩ := exec_ztrailer_done hex hrd
        rw [hinf, hm] at hhalf
        cases hhalf
      obtain ⟨hm, -⟩ := ztrailer_of_infFetchRun_done hrd he ht
      rw [hm] at hhalf
      cases hhalf
    · cases he
      exact (ztrailer_of_infFetchRun_done hs hr ht).2
  · exact (ztrailer_of_infFetchRun_done hs he ht).2

/-- Settles O55: a turn to `DONE` runs a trailer (`ztrailer_of_infTurn_done`) that passed every test
(`exec_ztrailer_done`), whose value is the last four bytes of `IN` (`Inf.decode_trailer_bytes`) and, by the checksum
invariant, the Adler-32 of the output. -/
theorem aCompletedDecodeIsVerified : Obligations.ACompletedDecodeIsVerified := by
  unfold Obligations.ACompletedDecodeIsVerified
  intro s t _ hadler hrun he ht
  have hs : s.inf.phase ≠ .done := fun hd => by rw [hd] at hrun; cases hrun
  obtain ⟨w, rest, hd, hex⟩ := ztrailer_of_infTurn_done hs he ht
  obtain ⟨hend, hsum, hcount, hinf⟩ := exec_ztrailer_done hex ht
  obtain ⟨-, hs1, hs2⟩ : t.inf.adlerInv := Inf.adlerInv_outputInvariant.infTurn hadler he
  have hbytes := Inf.decode_trailer_bytes hend hd
  rw [← hs1, ← hs2, hinf]
  exact ⟨hcount, rfl, by dsimp only; omega, rfl, hbytes.symm.trans hsum⟩

end Sys2Proof.Machine


/-! PROOFS. Block headers and the fixed code; O13, O14. -/

namespace Sys2Proof.Machine

open Sys2Proof

/-! ### Block headers (41_blocks_and_tables.md R150 to R154) -/

/-- With its 3 bits there, a block header latches its fields and goes on with the block type's own action (R150). -/
theorem onInf_blockHeader_of_le {s : State} (bfinal : Bool) (btype : BitVec 2) (next : Inf → Inf)
    (hfit : s.inf.bitpos + 3 ≤ 8 * s.inf.inLen) :
    s.onInf (Inf.blockHeader bfinal btype next) =
      { s with inf := next { s.inf.consumed 3 with bfinal := bfinal, btype := btype } } :=
  onInf_take_of_le s 3 _ hfit

/-- Settles O13: the header's fields and the phase are all a stored or a dynamic block's header writes
(`onInf_blockHeader_of_le`), and the reserved type faults at its first bit. -/
theorem blockHeaders : Obligations.BlockHeaders := by
  unfold Obligations.BlockHeaders
  intro bfinal s hfit
  refine ⟨⟨_, congrArg Host.Outcome.next (onInf_blockHeader_of_le bfinal 0 _ hfit), rfl, fun hm => ?_⟩,
    ⟨_, congrArg Host.Outcome.next (onInf_blockHeader_of_le bfinal 2 _ hfit), rfl, fun hm => ?_⟩, ?_⟩
  · simp [Inf.ctx, Inf.consumed, hm]
  · simp [Inf.ctx, Inf.consumed, hm]
  · exact congrArg Host.Outcome.next (onInf_take_of_le s 3 _ hfit)

/-! ### The fixed code (30_encoding.md R105, 41_blocks_and_tables.md R152) -/

/-- The Kraft sum of two sets of symbols side by side. -/
theorem kraftSum_append (ls ms : List CodeLen) : kraftSum (ls ++ ms) = kraftSum ls + kraftSum ms := by
  rw [kraftSum, List.map_append, List.sum_append]; rfl

/-- Each of `n` symbols of one length takes the same share. -/
theorem kraftSum_replicate (n : Nat) {l : CodeLen} (hl : l ≠ 0) :
    kraftSum (List.replicate n l) = n * 2 ^ (15 - l.toNat) := by
  rw [kraftSum, List.map_replicate, List.sum_replicate_nat, if_neg hl]

/-- An entry of a run of one length. -/
theorem getD_replicate (n : Nat) (l : CodeLen) (k : Nat) : (List.replicate n l).getD k 0 = if k < n then l else 0 := by
  rw [List.getD_eq_getElem?_getD, List.getElem?_replicate]
  exact apply_ite (Option.getD · 0) ..

/-- An entry of a run of one length with further symbols after it. -/
theorem getD_replicate_append (n : Nat) (l : CodeLen) (ls : List CodeLen) (k : Nat) :
    (List.replicate n l ++ ls).getD k 0 = if k < n then l else ls.getD (k - n) 0 := by
  rw [List.getD_eq_getElem?_getD, List.getElem?_append, List.length_replicate]
  by_cases hk : k < n
  · rw [if_pos hk, if_pos hk, List.getElem?_replicate, if_pos hk, Option.getD_some]
  · rw [if_neg hk, if_neg hk, List.getD_eq_getElem?_getD]

theorem length_fixedLlLen : fixedLlLen.length = 288 := by
  simp only [fixedLlLen, List.length_append, List.length_replicate]

/-- The fixed literal/length lengths, symbol by symbol. -/
theorem fixedLlLen_getD {k : Nat} (hk : k < 288) :
    fixedLlLen.getD k 0 = if k < 144 then 8 else if k < 256 then 9 else if k < 280 then 7 else 8 := by
  rw [fixedLlLen, List.append_assoc, List.append_assoc, getD_replicate_append, getD_replicate_append, getD_replicate_append,
    getD_replicate]
  exact ite_congr rfl (fun _ => rfl) fun h144 => ite_congr (propext (by omega)) (fun _ => rfl) fun h256 =>
    ite_congr (propext (by omega)) (fun _ => rfl) fun h280 => if_pos (by omega)

/-- The fixed distance lengths, symbol by symbol. -/
theorem fixedDLen_getD {k : Nat} (hk : k < 32) : fixedDLen.getD k 0 = 5 := by
  rw [fixedDLen, getD_replicate, if_pos hk]

/-- The fixed literal/length lengths fill the code space: 144 + 8 symbols of 8 bits, 112 of 9 and 24 of 7. -/
theorem classify_fixedLlLen : classify fixedLlLen = .complete := by
  rw [(classify_iff_kraftSum _).2.1, fixedLlLen, kraftSum_append, kraftSum_append, kraftSum_append,
    kraftSum_replicate _ (by decide), kraftSum_replicate _ (by decide), kraftSum_replicate _ (by decide),
    kraftSum_replicate _ (by decide)]
  rfl

/-- The fixed distance lengths fill the code space: 32 symbols of 5 bits. -/
theorem classify_fixedDLen : classify fixedDLen = .complete := by
  rw [(classify_iff_kraftSum _).2.1, fixedDLen, kraftSum_replicate _ (by decide)]
  rfl

/-- Settles O14: the lengths loaded are those of R105 (`fixedLlLen_getD`, `fixedDLen_getD`), and by their Kraft sums both sets
are complete. -/
theorem fixedBlockHeader : Obligations.FixedBlockHeader := by
  unfold Obligations.FixedBlockHeader
  intro bfinal s hfit
  have h256 : fixedLlLen.getD 256 0 ≠ 0 := by rw [fixedLlLen_getD (by decide)]; decide
  exact ⟨fixedLlLen, fixedDLen, congrArg Host.Outcome.next (onInf_blockHeader_of_le bfinal 1 Inf.loadFixed hfit),
    length_fixedLlLen, List.length_replicate, fun k => fixedLlLen_getD, fun k => fixedDLen_getD, classify_fixedLlLen,
    classify_fixedDLen, h256⟩

end Sys2Proof.Machine


/-! PROOFS. Table completion; O19. -/

namespace Sys2Proof.Machine

open Sys2Proof

/-! ### What table completion accepts (41_blocks_and_tables.md R162 to R164) -/

/-- Symbols without a code take no share of the code space. -/
theorem kraftSum_filter_ne_zero (d : List CodeLen) : kraftSum (d.filter fun l => l != 0) = kraftSum d := by
  induction d with
  | nil => rfl
  | cons l ls ih =>
    by_cases hl : l = 0
    · rw [List.filter_cons_of_neg (by simp [hl]), ih, kraftSum, kraftSum, List.map_cons, List.sum_cons, if_pos hl, Nat.zero_add]
    · rw [List.filter_cons_of_pos (by simpa using hl), kraftSum, List.map_cons, List.sum_cons, ← kraftSum, ih]
      rfl

/-- No symbol has a code. -/
theorem filter_ne_zero_eq_nil (d : List CodeLen) : d.filter (fun l => l != 0) = [] ↔ ∀ l ∈ d, l = 0 := by
  simp [List.filter_eq_nil_iff]

/-- Every entry of a set, by symbol. -/
theorem forall_getD_eq_zero_iff (d : List CodeLen) : (∀ k < d.length, d.getD k 0 = 0) ↔ ∀ l ∈ d, l = 0 := by
  rw [List.forall_mem_iff_forall_getElem]
  refine forall_congr' fun k => forall_congr' fun hk => ?_
  rw [List.getD_eq_getElem?_getD, List.getElem?_eq_getElem hk, Option.getD_some]

/-- One symbol alone has a code, of length `v`. -/
theorem filter_ne_zero_eq_singleton (d : List CodeLen) {v : CodeLen} (hv : v ≠ 0) :
    d.filter (fun l => l != 0) = [v] ↔
      ∃ t < d.length, d.getD t 0 = v ∧ ∀ k < d.length, k ≠ t → d.getD k 0 = 0 := by
  induction d with
  | nil => simp
  | cons l ls ih =>
    rw [List.length_cons, Nat.exists_lt_succ_left]
    simp only [Nat.forall_lt_succ_left, List.getD_cons_zero, List.getD_cons_succ]
    by_cases hl : l = 0#4
    · have hne : 0#4 ≠ v := Ne.symm hv
      rw [List.filter_cons_of_neg (by simp [hl]), ih]
      simp [hl, hne]
    · rw [List.filter_cons_of_pos (by simpa using hl), List.cons.injEq, filter_ne_zero_eq_nil, ← forall_getD_eq_zero_iff]
      simp [hl]

/-- The incomplete distance sets permitted: under `rfc` the empty one and those of a single code of length 1 (R163). -/
theorem incompletePermitted_iff (p : Policy) (d : List CodeLen) :
    incompletePermitted p d = true ↔
      p = .rfc ∧ ((∀ l ∈ d, l = 0) ∨ ∃ t < d.length, d.getD t 0 = 1 ∧ ∀ k < d.length, k ≠ t → d.getD k 0 = 0) := by
  rw [← filter_ne_zero_eq_nil, ← filter_ne_zero_eq_singleton d (by decide)]
  cases p <;> simp [incompletePermitted]

/-- A set permitted as an incomplete one is not over-subscribed: it uses none or half of the code space. -/
theorem kraftSum_lt_of_incompletePermitted {p : Policy} {d : List CodeLen} (h : incompletePermitted p d = true) :
    kraftSum d < 32768 := by
  rw [incompletePermitted_iff, ← filter_ne_zero_eq_nil, ← filter_ne_zero_eq_singleton d (by decide)] at h
  rw [← kraftSum_filter_ne_zero]
  obtain ⟨-, h | h⟩ := h <;> rw [h] <;> decide

/-- The tests of table completion in the model's terms. -/
theorem tablesAccepted_iff (p : Policy) (ll d : List CodeLen) :
    tablesAccepted p ll d ↔ ll.getD 256 0 ≠ 0 ∧ classify ll = .complete ∧ classify d ≠ .overSubscribed ∧
      (classify d = .complete ∨ incompletePermitted p d = true) := by
  obtain ⟨-, hll, -⟩ := classify_iff_kraftSum ll
  obtain ⟨hover, hd, -⟩ := classify_iff_kraftSum d
  rw [tablesAccepted, ← incompletePermitted_iff, hll, hd, Ne, Ne, hover]
  refine and_congr_right fun _ => and_congr_right fun _ => ⟨fun h => ⟨?_, h⟩, And.right⟩
  obtain h | h := h
  · omega
  · exact Nat.not_lt.2 (Nat.le_of_lt (kraftSum_lt_of_incompletePermitted h))

/-- Accepted tables take the unit to `SYM` (R164). -/
theorem Inf.completeTables_of_accepted {p : Policy} {u : Inf} (u0 : Inf) (h : tablesAccepted p u.llLen u.dLen) :
    Inf.completeTables p u0 u = { u with phase := .sym } := by
  obtain ⟨h256, hll, hover, hd⟩ := (tablesAccepted_iff ..).1 h
  have hincomplete : ¬ (classify u.dLen = .incomplete ∧ incompletePermitted p u.dLen = false) := by
    rintro ⟨hi, hp⟩
    rw [hi, hp] at hd
    obtain hd | hd := hd <;> cases hd
  unfold Inf.completeTables
  rw [if_neg h256, if_neg (not_not_intro hll), if_neg hover, if_neg hincomplete]

/-- Tables that are not accepted fault at the first bit of the element that completes them (R162, R280). -/
theorem Inf.completeTables_of_not_accepted {p : Policy} {u : Inf} (u0 : Inf) (h : ¬ tablesAccepted p u.llLen u.dLen) :
    Inf.completeTables p u0.begin u = u0.stopped 16 := by
  refine (Inf.completeTables_cases p u0.begin u).resolve_left fun hacc => h ?_
  obtain ⟨h256, hll, hover, hd, -⟩ := hacc
  exact (tablesAccepted_iff ..).2 ⟨h256, hll, hover, hd⟩

/-- The element that reads the last length completes the tables. -/
theorem Inf.endLens_of_last {p : Policy} {u : Inf} (u0 : Inf) (h : u.lidx = u.nlen + u.ndist) :
    Inf.endLens p u0 u = Inf.completeTables p u0 u := if_pos h

/-- Settles O19: the last code-length element appends its entries (`exec_codeLength_appends`) and completes the tables as
`TABLES` does, which goes on or faults as R162 to R164 accept the two sets. -/
theorem tableCompletion : Obligations.TableCompletion := by
  unfold Obligations.TableCompletion
  refine ⟨fun i sym k x r p s ll d hi hr hp hfit hprev hlast hsll hsd hll hd hllEq hdEq => ?_, fun s => ?_⟩
  · rw [exec_codeLength_appends i sym k x r p s ll d hi hr hp hfit hprev (Nat.le_of_eq hlast) hsll hsd hll hd hllEq hdEq,
      Inf.endLens_of_last s.inf.begin hlast]
    exact ⟨fun hacc => by rw [Inf.completeTables_of_accepted _ hacc],
      fun hnot => by rw [Inf.completeTables_of_not_accepted _ hnot]⟩
  · have hexec : exec .tables s =
        .next { s with inf := Inf.completeTables s.params.incomplete s.inf.begin s.inf.begin } := rfl
    rw [hexec]
    exact ⟨fun hacc => by rw [Inf.completeTables_of_accepted (u := s.inf.begin) _ hacc]; rfl,
      fun hnot => by rw [Inf.completeTables_of_not_accepted (u := s.inf.begin) _ hnot]⟩

end Sys2Proof.Machine


/-! PROOFS. The faults of code-length elements; O20. -/

namespace Sys2Proof.Machine

open Sys2Proof

/-! ### Faults of code-length elements (41_blocks_and_tables.md R158 to R161, 60_exceptions.md R280, R283) -/

/-- `CL0` to `CL15` short of their code. -/
theorem Inf.clExplicit_of_short {u : Inf} {v : Nat} (p : Policy)
    (hshort : 8 * u.inLen < u.bitpos + (u.clLen.getD v 0).toNat) : Inf.clExplicit v p u = u.stopped 2 := by
  unfold Inf.clExplicit
  exact Inf.take_of_lt _ _ u.begin hshort

/-- `CL16` short of its code. -/
theorem Inf.clRepeat_of_short_code {u : Inf} (x : Nat) (p : Policy)
    (hshort : 8 * u.inLen < u.bitpos + (u.clLen.getD 16 0).toNat) : Inf.clRepeat x p u = u.stopped 2 := by
  unfold Inf.clRepeat
  exact Inf.take_of_lt _ _ u.begin hshort

/-- `CL16` with its code there: that a length came before, that the extra bits are there and that the count fits are tested in
this order (R283). -/
theorem Inf.clRepeat_of_code {u : Inf} (x : Nat) (p : Policy)
    (hcode : u.bitpos + (u.clLen.getD 16 0).toNat ≤ 8 * u.inLen) :
    Inf.clRepeat x p u =
      if u.lidx = 0 then u.stopped 16
      else if 8 * u.inLen < u.bitpos + (u.clLen.getD 16 0).toNat + clExtra 16 then u.stopped 2
      else if u.nlen + u.ndist < u.lidx + (clBase 16 + x) then u.stopped 16
      else Inf.endLens p u.begin
        (Inf.appendLens (clBase 16 + x) (u.seqLen (u.lidx - 1))
          ((u.begin.advance (u.clLen.getD 16 0).toNat).advance (clExtra 16))) := by
  unfold Inf.clRepeat
  refine (Inf.take_of_le _ _ u.begin hcode).trans (ite_congr rfl (fun _ => rfl) fun _ => ?_)
  split
  · exact Inf.take_of_lt _ _ (u.begin.advance _) ‹_›
  · exact Inf.take_of_le _ _ (u.begin.advance _) (Nat.le_of_not_lt ‹_›)

/-- `CL17` and `CL18` short of their bits. -/
theorem Inf.clZeros_of_short {u : Inf} {sym : Nat} (x : Nat) (p : Policy)
    (hshort : 8 * u.inLen < u.bitpos + ((u.clLen.getD sym 0).toNat + clExtra sym)) :
    Inf.clZeros sym x p u = u.stopped 2 := by
  unfold Inf.clZeros
  exact Inf.take_of_lt _ _ u.begin hshort

/-- `CL17` and `CL18` with their bits there and a count that runs past the sequence (R160, R161). -/
theorem Inf.clZeros_of_overrun {u : Inf} {sym x : Nat} (p : Policy)
    (hfit : u.bitpos + ((u.clLen.getD sym 0).toNat + clExtra sym) ≤ 8 * u.inLen)
    (hover : u.nlen + u.ndist < u.lidx + (clBase sym + x)) : Inf.clZeros sym x p u = u.stopped 16 := by
  unfold Inf.clZeros
  exact (Inf.take_of_le _ _ u.begin hfit).trans (if_pos hover)

section CodeLength

variable {i : Instr} {sym k x : Nat} {s : State} (hi : i.coded = some ⟨.codeLength, sym, k, x⟩)

include hi

/-- A code-length element short of its bits takes `UnexpectedEof`; `CL16` without a previous length only when its code is
short already. -/
theorem exec_codeLength_of_short (hshort : 8 * s.inf.inLen < s.inf.bitpos + (s.inf.clLen.getD sym 0).toNat + k)
    (hprev : sym = 16 → s.inf.lidx = 0 → 8 * s.inf.inLen < s.inf.bitpos + (s.inf.clLen.getD sym 0).toNat) :
    exec i s = .next { s with inf := s.inf.stopped 2 } := by
  obtain ⟨-, rfl, -, hex⟩ := exec_codeLength i sym k x s hi
  refine hex.trans (congrArg (fun v => Host.Outcome.next ({ s with inf := v } : State)) ?_)
  by_cases hexplicit : sym < 16
  · have hextra : ∀ v < 16, clExtra v = 0 := by decide
    rw [if_pos hexplicit]
    exact Inf.clExplicit_of_short _ (by rwa [hextra sym hexplicit] at hshort)
  · rw [if_neg hexplicit]
    by_cases h16 : sym = 16
    · subst h16
      rw [if_pos rfl]
      by_cases hcode : s.inf.bitpos + (s.inf.clLen.getD 16 0).toNat ≤ 8 * s.inf.inLen
      · rw [Inf.clRepeat_of_code _ _ hcode, if_neg fun h0 => Nat.not_lt.2 hcode (hprev rfl h0), if_pos hshort]
      · exact Inf.clRepeat_of_short_code _ _ (Nat.lt_of_not_le hcode)
    · rw [if_neg h16]
      exact Inf.clZeros_of_short _ _ (Nat.add_assoc .. ▸ hshort)

/-- `CL16` with its code there and no previous length faults, whether or not its extra bits are there (R283). -/
theorem exec_codeLength_of_no_previous (h16 : sym = 16)
    (hcode : s.inf.bitpos + (s.inf.clLen.getD sym 0).toNat ≤ 8 * s.inf.inLen) (h0 : s.inf.lidx = 0) :
    exec i s = .next { s with inf := s.inf.stopped 16 } := by
  subst h16
  obtain ⟨-, -, -, hex⟩ := exec_codeLength i 16 k x s hi
  rw [hex, if_neg (by decide), if_pos rfl, State.onInf, Inf.clRepeat_of_code _ _ hcode, if_pos h0]

/-- A repeat whose bits are there and whose count runs past the sequence faults. -/
theorem exec_codeLength_of_overrun (hrepeat : 16 ≤ sym) (hprev : sym = 16 → s.inf.lidx ≠ 0)
    (hfit : s.inf.bitpos + (s.inf.clLen.getD sym 0).toNat + k ≤ 8 * s.inf.inLen)
    (hover : s.inf.nlen + s.inf.ndist < s.inf.lidx + ((if sym = 18 then 11 else 3) + x)) :
    exec i s = .next { s with inf := s.inf.stopped 16 } := by
  obtain ⟨hsym, rfl, -, hex⟩ := exec_codeLength i sym k x s hi
  rw [hex, if_neg (Nat.not_lt.2 hrepeat), State.onInf]
  by_cases h16 : sym = 16
  · subst h16
    rw [if_pos rfl, Inf.clRepeat_of_code _ _ (Nat.le_of_add_right_le hfit), if_neg (hprev rfl), if_neg (Nat.not_lt.2 hfit),
      if_pos (show _ < s.inf.lidx + (clBase 16 + x) from hover)]
  · have hbase : clBase sym = if sym = 18 then 11 else 3 := by
      obtain rfl | rfl : sym = 17 ∨ sym = 18 := by omega
      · rfl
      · rfl
    rw [if_neg h16, Inf.clZeros_of_overrun _ (Nat.add_assoc .. ▸ hfit) (hbase ▸ hover)]

end CodeLength

/-- Settles O20: the element is short of its bits, has no previous length, or overruns, in the order of R283. -/
theorem codeLengthElementFaults : Obligations.CodeLengthElementFaults := by
  unfold Obligations.CodeLengthElementFaults
  intro i sym k x s hi
  exact ⟨fun hshort => exec_codeLength_of_short hi (Nat.lt_add_right k hshort) fun _ _ => hshort,
    exec_codeLength_of_no_previous hi,
    fun hprev hshort => exec_codeLength_of_short hi hshort fun h16 h0 => absurd h0 (hprev h16),
    exec_codeLength_of_overrun hi⟩

end Sys2Proof.Machine


/-! PROOFS. The checksum is linear and injective in each byte; reads of `CRC_VALUE`; O30, O28, O29. -/

namespace Sys2Proof.Machine

open Sys2Proof

/-! ### The shift steps are linear and injective (43_crc32.md R220, R225) -/

/-- A shift step as the sum of the shifted word and of the polynomial, if the bit shifted out is 1. -/
theorem crcShift_eq_xor (c : Word) : crcShift c = (c >>> 1) ^^^ (if c.getLsbD 0 then crcPoly else 0#32) := by
  unfold crcShift
  split
  · rfl
  · exact BitVec.xor_zero.symm

theorem crcShift_xor (c d : Word) : crcShift (c ^^^ d) = crcShift c ^^^ crcShift d := by
  have hpoly : (if c.getLsbD 0 ^^ d.getLsbD 0 then crcPoly else 0#32) =
      (if c.getLsbD 0 then crcPoly else 0#32) ^^^ (if d.getLsbD 0 then crcPoly else 0#32) := by
    cases c.getLsbD 0 <;> cases d.getLsbD 0 <;> decide
  rw [crcShift_eq_xor, crcShift_eq_xor, crcShift_eq_xor, BitVec.ushiftRight_xor_distrib, BitVec.getLsbD_xor, hpoly]
  ac_rfl

/-- The top bit of the polynomial is 1, so the top bit after a step is the bit shifted out. -/
theorem crcShift_getLsbD_top (c : Word) : (crcShift c).getLsbD 31 = c.getLsbD 0 := by
  have hpoly : crcPoly.getLsbD 31 = true := by decide
  rw [crcShift_eq_xor, BitVec.getLsbD_xor, BitVec.getLsbD_ushiftRight, BitVec.getLsbD_of_ge c _ (by decide), Bool.false_xor]
  split
  · rw [hpoly, ‹c.getLsbD 0 = true›]
  · rw [BitVec.getLsbD_zero, eq_false_of_ne_true ‹¬ c.getLsbD 0 = true›]

/-- A step loses nothing: its top bit is the bit shifted out, and with that the other bits are known. -/
theorem crcShift_injective : Function.Injective crcShift := by
  intro c d h
  have hlow : c.getLsbD 0 = d.getLsbD 0 := by rw [← crcShift_getLsbD_top, h, crcShift_getLsbD_top]
  have hhigh : c >>> 1 = d >>> 1 := by
    rw [crcShift_eq_xor, crcShift_eq_xor, hlow] at h
    exact (BitVec.xor_left_inj _).1 h
  refine BitVec.eq_of_getLsbD_eq fun i _ => ?_
  cases i with
  | zero => exact hlow
  | succ i => simpa [Nat.add_comm] using congrArg (BitVec.getLsbD · i) hhigh

theorem crcShifts_xor (n : Nat) (c d : Word) : crcShifts n (c ^^^ d) = crcShifts n c ^^^ crcShifts n d := by
  induction n generalizing c d with
  | zero => rfl
  | succ n ih => simp only [crcShifts, crcShift_xor, ih]

theorem crcShifts_injective (n : Nat) : Function.Injective (crcShifts n) := by
  induction n with
  | zero => exact fun _ _ h => h
  | succ n ih => exact ih.comp crcShift_injective

/-- While the bits shifted out are 0, the polynomial is not added. -/
theorem crcShifts_of_low_zero {n : Nat} {c : Word} (h : ∀ i < n, c.getLsbD i = false) : crcShifts n c = c >>> n := by
  induction n generalizing c with
  | zero => rfl
  | succ n ih =>
    have hstep : crcShift c = c >>> 1 := if_neg (by rw [h 0 n.succ_pos]; decide)
    rw [crcShifts, hstep, ih fun i hi => by simpa [Nat.add_comm] using h (i + 1) (Nat.succ_lt_succ hi),
      ← BitVec.shiftRight_add, Nat.add_comm]

/-! ### `crc_byte` (R220, R225) -/

theorem crcByte_xor (c d : Word) (a b : Byte) : crcByte (c ^^^ d) (a ^^^ b) = crcByte c a ^^^ crcByte d b := by
  have hregroup : c ^^^ d ^^^ (a ^^^ b).setWidth 32 = (c ^^^ a.setWidth 32) ^^^ (d ^^^ b.setWidth 32) := by
    rw [BitVec.setWidth_xor]; ac_rfl
  rw [crcByte, hregroup, crcShifts_xor]; rfl

theorem crcByte_injective_left (b : Byte) : Function.Injective (crcByte · b) :=
  fun _ _ h => (BitVec.xor_left_inj _).1 (crcShifts_injective 8 h)

theorem crcByte_injective_right (c : Word) : Function.Injective (crcByte c) := by
  intro a b h
  have hwide : a.setWidth 32 = b.setWidth 32 := (BitVec.xor_right_inj _).1 (crcShifts_injective 8 h)
  simpa using congrArg (BitVec.setWidth 8) hwide

/-- The bits of `c ^ b` above its low byte are those of `c`, as `b` enters at the low 8 bits. -/
theorem getLsbD_xor_byte_high (c : Word) (b : Byte) {i : Nat} (hi : i < 32) :
    ((c ^^^ b.setWidth 32) ^^^ ((c ^^^ b.setWidth 32) &&& 0xFF)).getLsbD i = (decide (8 ≤ i) && c.getLsbD i) := by
  have hmask : ∀ i < 32, (0xFF : Word).getLsbD i = decide (i < 8) := by decide
  rw [BitVec.getLsbD_xor, BitVec.getLsbD_and, hmask i hi, BitVec.getLsbD_xor]
  by_cases hlow : i < 8
  · simp [hlow, Nat.not_le.2 hlow]
  · have hbyte : (b.setWidth 32).getLsbD i = false := by
      rw [BitVec.getLsbD_setWidth, BitVec.getLsbD_of_ge b i (Nat.le_of_not_lt hlow), Bool.and_false]
    simp [hlow, Nat.le_of_not_lt hlow, hbyte]

/-- With its low byte cleared, `c ^ b` is only moved by the eight steps, and its bits are those of `c`. -/
theorem crcShifts_xor_byte_high (c : Word) (b : Byte) :
    crcShifts 8 ((c ^^^ b.setWidth 32) ^^^ ((c ^^^ b.setWidth 32) &&& 0xFF)) = c >>> 8 := by
  have hlow : ∀ i < 8, ((c ^^^ b.setWidth 32) ^^^ ((c ^^^ b.setWidth 32) &&& 0xFF)).getLsbD i = false := fun i hi => by
    rw [getLsbD_xor_byte_high c b (by omega), decide_eq_false (Nat.not_le.2 hi), Bool.false_and]
  rw [crcShifts_of_low_zero hlow]
  refine BitVec.eq_of_getLsbD_eq fun i _ => ?_
  rw [BitVec.getLsbD_ushiftRight, BitVec.getLsbD_ushiftRight]
  by_cases hi : 8 + i < 32
  · rw [getLsbD_xor_byte_high c b hi, decide_eq_true (Nat.le_add_right 8 i), Bool.true_and]
  · rw [BitVec.getLsbD_of_ge _ _ (Nat.le_of_not_lt hi), BitVec.getLsbD_of_ge _ _ (Nat.le_of_not_lt hi)]

/-- The table form: the low byte takes the eight steps alone, and the other bits are only moved (R220). -/
theorem crcByte_eq_table (c : Word) (b : Byte) :
    crcByte c b = crcShifts 8 ((c ^^^ b.setWidth 32) &&& 0xFF) ^^^ (c >>> 8) := by
  rw [← crcShifts_xor_byte_high c b, ← crcShifts_xor, BitVec.xor_comm _ (_ &&& _), ← BitVec.xor_assoc, BitVec.xor_self,
    BitVec.zero_xor, crcByte]

/-! ### The checksum of a message -/

/-- Two messages side by side: equal sums of registers stay equal sums when the first pair is fed `x` and `y` and the second
their sum and zeros. -/
theorem foldl_crcByte_xor {x y : List Byte} (hlen : x.length = y.length) {c d e f : Word} (h : c ^^^ d = e ^^^ f) :
    x.foldl crcByte c ^^^ y.foldl crcByte d =
      (List.zipWith (· ^^^ ·) x y).foldl crcByte e ^^^ (List.replicate x.length 0).foldl crcByte f := by
  induction x generalizing y c d e f with
  | nil =>
    obtain rfl := List.length_eq_zero_iff.1 hlen.symm
    exact h
  | cons a x ih =>
    obtain _ | ⟨b, y⟩ := y
    · cases hlen
    · refine ih (Nat.succ.inj hlen) ?_
      rw [← crcByte_xor, ← crcByte_xor, h, show (0 : Byte) = 0#8 from rfl, BitVec.xor_zero]

/-- What registers differ in is never lost by the bytes that follow. -/
theorem foldl_crcByte_injective (m : List Byte) : Function.Injective (m.foldl crcByte) := by
  induction m with
  | nil => exact fun _ _ h => h
  | cons b m ih => exact ih.comp (crcByte_injective_left b)

/-- Another byte in one place makes another register, whatever bytes stand before and after it. -/
theorem foldl_crcByte_set_ne {m : List Byte} {n : Nat} {b : Byte} (hn : n < m.length) (hb : b ≠ m.getD n 0) (c : Word) :
    (m.set n b).foldl crcByte c ≠ m.foldl crcByte c := by
  induction m generalizing n c with
  | nil => cases hn
  | cons a m ih =>
    cases n with
    | zero => exact fun h => hb (crcByte_injective_right c (foldl_crcByte_injective m h))
    | succ n => exact ih (Nat.lt_of_succ_lt_succ hn) hb (crcByte c a)

theorem crc32_set_ne {m : List Byte} {n : Nat} {b : Byte} (hn : n < m.length) (hb : b ≠ m.getD n 0) :
    crc32 (m.set n b) ≠ crc32 m :=
  fun h => foldl_crcByte_set_ne hn hb _ ((BitVec.xor_left_inj _).1 h)

/-- Flipping a bit changes a word. -/
theorem xor_twoPow_ne {w j : Nat} (hj : j < w) (x : BitVec w) : x ^^^ BitVec.ofNat w (2 ^ j) ≠ x := by
  intro h
  have hzero : BitVec.ofNat w (2 ^ j) = 0#w := (BitVec.xor_right_inj x).1 (h.trans BitVec.xor_zero.symm)
  have hpow := congrArg BitVec.toNat hzero
  rw [BitVec.toNat_ofNat, Nat.mod_eq_of_lt (Nat.pow_lt_pow_right Nat.one_lt_two hj)] at hpow
  exact Nat.ne_of_gt (Nat.two_pow_pos j) (hpow.trans (Nat.zero_mod _))

/-- Settles O29: `crc_byte` is linear in register and byte together, and the start and final constants cancel. -/
theorem crcIsLinear : Obligations.CrcIsLinear := by
  unfold Obligations.CrcIsLinear
  refine ⟨fun x y hlen => ?_, crcByte_eq_table⟩
  have hcancel : ∀ u v k : Word, (u ^^^ k) ^^^ (v ^^^ k) = u ^^^ v := fun u v k => by
    rw [BitVec.xor_comm v, ← BitVec.xor_assoc, BitVec.xor_assoc u, BitVec.xor_self, BitVec.xor_zero]
  rw [crc32, crc32, crc32, crc32, hcancel, hcancel, foldl_crcByte_xor hlen rfl]

/-! ### Reading and checking the checksum of the bytes fed (R223, R224) -/

theorem hostTurn_read_crcValue (s : State) : hostTurn (.read .crc 6) s = .next { s with hostData := s.crc.readReg 6 } := rfl

/-- `CRC_VALUE` is the checksum of the bytes fed. -/
theorem Crc.Fed.readReg_value {p : List Byte} {u : Crc} (h : u.Fed p) : u.readReg 6 = (crc32 p).toNat :=
  congrArg (fun c : Word => (c ^^^ 0xFFFFFFFF).toNat) h.reg

/-- `CHECK` of any other value takes the fault. -/
theorem Crc.Fed.check_of_ne {p : List Byte} {u : Crc} (h : u.Fed p) {e : Word} (he : crc32 p ≠ e) :
    u.check e = u.raise .chunkChecksumMismatch := by
  have hcrc : u.reg ^^^ 0xFFFFFFFF = crc32 p := congrArg (· ^^^ 0xFFFFFFFF) h.reg
  rw [Crc.check, if_neg (not_not_intro h.cstate), hcrc, if_neg he]

/-- After `INIT` outside `FAULT` and `BYTE` for every byte of a sequence, CRC holds that sequence. -/
theorem fed_of_init_of_crcFeed {m : List Byte} {s t r : State} (hs : s.crc.cstate ≠ .fault) (ht : exec .init s = .next t)
    (hr : crcFeed m t = some r) : r.crc.Fed m := by
  cases ht
  obtain ⟨u, hfeed, hfed⟩ := crcFeed_fed m (s := s.onCrc Crc.init) (Crc.fed_init hs)
  cases hfeed.symm.trans hr
  exact hfed

/-- Settles O28: what `CRC_VALUE` reads is the checksum of the bytes CRC holds (`Crc.Fed.readReg_value`). -/
theorem crcValueRegister : Obligations.CrcValueRegister := by
  unfold Obligations.CrcValueRegister
  refine ⟨fun s => rfl, fun m s t r hs ht hr => ?_, fun s t ht => ?_⟩
  · rw [hostTurn_read_crcValue, (fed_of_init_of_crcFeed hs ht hr).readReg_value]
  · cases ht
    have hreset : Crc.reset.readReg 6 = 0 := by decide
    exact congrArg (fun v => Host.Outcome.next ({ s.onCrc Crc.unitReset with hostData := v } : State)) hreset

/-- Settles O30: a flipped bit makes another byte and so another checksum (`crc32_set_ne`), or another stored checksum, and
`CHECK` faults on any other value. -/
theorem crcSeesEverySingleBit : Obligations.CrcSeesEverySingleBit := by
  unfold Obligations.CrcSeesEverySingleBit
  intro m m' e s t r q hflip hs ht hr hq
  have hne : crc32 m' ≠ e := by
    obtain ⟨n, j, hn, hj, rfl, rfl⟩ | ⟨rfl, j, hj, rfl⟩ := hflip
    · exact crc32_set_ne hn (xor_twoPow_ne hj _)
    · exact (xor_twoPow_ne hj _).symm
  have hfault := (fed_of_init_of_crcFeed hs ht hr).check_of_ne hne
  cases hq
  exact ⟨congrArg Crc.cstate hfault, congrArg Crc.err hfault⟩

end Sys2Proof.Machine

/-! PROOFS. DEF: its start, what a turn can do, its end step, its faults and the bound on its run; O57, O32, O33, O35, O51, O34,
O36, O38. -/

namespace Sys2Proof.Machine

open Sys2Proof

/-! ### The next sub-image (44_defilter.md R242) -/

/-- A sub-image is empty when it has no columns or no rows. -/
theorem Dfl.emptyPass_iff (u : Dfl) (q : Nat) : u.emptyPass q = true ↔ u.rowBytes.getD q 0 = 0 ∨ u.rows.getD q 0 = 0 := by
  rw [Dfl.emptyPass, Bool.or_eq_true, beq_iff_eq, beq_iff_eq]

/-- Settles O35: what `nextpass` finds among the sub-images it looks at (`Dfl.nextPassFrom_spec`), those from `p` to NPASS. -/
theorem nextSubImage : Obligations.NextSubImage := by
  unfold Obligations.NextSubImage
  intro u p hp
  obtain ⟨hge, hle, hskip, hstop⟩ := u.nextPassFrom_spec (u.npass.toNat - p) p
  rw [← Dfl.nextPass, Nat.add_sub_cancel' hp] at hle hstop
  refine ⟨hge, hle, fun hlt => ?_, fun r hr hlt => (u.emptyPass_iff r).1 (hskip r hr hlt)⟩
  have hne : ¬ (u.rowBytes.getD (u.nextPass p) 0 = 0 ∨ u.rows.getD (u.nextPass p) 0 = 0) := by
    rw [← u.emptyPass_iff, hstop hlt]
    exact Bool.false_ne_true
  omega

/-! ### The end step (R251) -/

/-- Settles O34: past the last sub-image DEF decodes to DEF.END, and `nextpass` stops at NPASS when it finds none. -/
theorem defilterEndStep : Obligations.DefilterEndStep := by
  unfold Obligations.DefilterEndStep
  intro s
  refine ⟨fun hr hp => ?_, fun hle => ?_, fun hlt => ?_, fun hempty => ?_⟩
  · exact dflTurn_of_decode hr (Nat.le_of_eq hp) (by rw [if_neg (Nat.not_lt.2 (Nat.le_of_eq hp.symm))]; rfl)
  · show Host.Outcome.next (s.onDfl Dfl.endStep) = _
    rw [State.onDfl, Dfl.endStep_eq, if_neg (Nat.not_lt.2 hle)]
    rfl
  · show Host.Outcome.next (s.onDfl Dfl.endStep) = _
    rw [State.onDfl, Dfl.endStep_eq, if_pos hlt]
    rfl
  · obtain ⟨-, hle, hfound, -⟩ := nextSubImage s.dfl 0 (Nat.zero_le _)
    refine Nat.le_antisymm hle (Nat.not_lt.1 fun hlt => ?_)
    have hpos := hfound hlt
    have hzero := hempty _ hlt
    omega

/-! ### Scanlines that fault (R243, R250) -/

/-- A scanline whose row is not all in `DIN` (R276). -/
theorem Dfl.scanline_of_lt {u : Dfl} (ft : Byte) (pr : Nat → Nat → Nat → Nat)
    (h : u.inLen < u.ipos + 1 + u.rowBytes.getD u.pass 0) : u.scanline ft pr = u.stopped 18 (some ft) := by
  rw [Dfl.scanline_eq, if_pos h]
  rfl

/-- Settles O32: a short row (`Dfl.scanline_of_lt`), or no filter-type byte to decode. -/
theorem scanlineFaults : Obligations.ScanlineFaults := by
  unfold Obligations.ScanlineFaults
  refine ⟨fun i ft s hi hshort => ?_, fun s hr hp hend => ?_⟩
  · rw [exec_filter s hi, Dfl.scanline_of_lt _ _ hshort]
  · have hturn : s.dfl.turn = s.dfl.stopped 18 none := by
      rw [Dfl.turn, if_neg (not_not_intro hr), if_pos hp, if_neg (Nat.not_lt.2 hend)]
      rfl
    rw [dflTurn_eq fun _ => Nat.le_of_lt hp, State.onDfl, hturn]

/-- A filter-type byte of 5 or more (R277). -/
theorem Dfl.rowStep_of_illegal {ft : Byte} (h : 5 ≤ ft.toNat) (u : Dfl) : u.rowStep ft = u.stopped 19 (some ft) := by
  rw [Dfl.rowStep, if_neg (Nat.not_lt.2 h)]
  rfl

/-- Settles O33: the row step of an illegal byte is the fault (`Dfl.rowStep_of_illegal`), which the error registers show. -/
theorem illegalFilterType : Obligations.IllegalFilterType := by
  unfold Obligations.IllegalFilterType
  refine ⟨fun ft s => rfl, fun s hr hp hi hft => ⟨_, ?_, rfl, rfl, rfl, rfl⟩⟩
  have hturn : s.dfl.turn = s.dfl.stopped 19 (some (s.dfl.dinByte s.dfl.ipos)) := by
    rw [Dfl.turn, if_neg (not_not_intro hr), if_pos hp, if_pos hi, Dfl.rowStep_of_illegal hft]
  rw [dflTurn_eq fun _ => Nat.le_of_lt hp, State.onDfl, hturn]

/-! ### What a turn can do (R243, R250, R251) -/

/-- The filter-type byte a turn reads, if there is a sub-image left and the byte is in `DIN`. -/
def Dfl.filterByte (u : Dfl) : Option Byte :=
  if u.pass < u.npass.toNat ∧ u.ipos < u.inLen then some (u.dinByte u.ipos) else none

/-- A turn of DEF in `ROW` reconstructs a row, ends the run, or takes one of the faults 18, 19 and 32. -/
theorem Dfl.turn_cases {u : Dfl} (hr : u.dphase = .row) :
    (u.pass < u.npass.toNat ∧ ∃ ft cur, u.turn = ((u.readFilter ft).rowDone cur).nextRow) ∨
    u.turn = u.begin.finish ∨
    ∃ code, code ∈ [(18 : BitVec 8), 19, 32] ∧ u.turn = u.stopped code u.filterByte := by
  rw [Dfl.turn, if_neg (not_not_intro hr)]
  by_cases hp : u.pass < u.npass.toNat
  · rw [if_pos hp]
    by_cases hi : u.ipos < u.inLen
    · rw [if_pos hi, Dfl.filterByte, if_pos ⟨hp, hi⟩]
      by_cases hft : 5 ≤ (u.dinByte u.ipos).toNat
      · exact .inr (.inr ⟨19, by simp, Dfl.rowStep_of_illegal hft u⟩)
      · rw [Dfl.rowStep, if_pos (by omega)]
        by_cases hshort : u.inLen < u.ipos + 1 + u.rowBytes.getD u.pass 0
        · exact .inr (.inr ⟨18, by simp, Dfl.scanline_of_lt _ _ hshort⟩)
        · exact .inl ⟨hp, _, _, by rw [Dfl.scanline_eq, if_neg hshort]⟩
    · rw [if_neg hi, Dfl.filterByte, if_neg fun h => hi h.2]
      exact .inr (.inr ⟨18, by simp, rfl⟩)
  · rw [if_neg hp, Dfl.filterByte, if_neg fun h => hp h.1, Dfl.endStep_eq]
    by_cases hi : u.ipos < u.inLen
    · rw [if_pos hi]
      exact .inr (.inr ⟨32, by simp, rfl⟩)
    · rw [if_neg hi]
      exact .inr (.inl rfl)

@[simp] theorem Dfl.nextRow_dphase (u : Dfl) : u.nextRow.dphase = u.dphase := by
  unfold Dfl.nextRow
  split <;> rfl

/-- Settles O51: of what a turn can do (`Dfl.turn_cases`) only the faults lead to `FAULT`. -/
theorem faultsOfDefArePrecise : Obligations.FaultsOfDefArePrecise := by
  unfold Obligations.FaultsOfDefArePrecise
  intro s t hr ht hfault
  rw [eq_turn_of_dflTurn ht] at hfault ⊢
  rw [State.onDfl_dfl] at hfault ⊢
  obtain ⟨-, ft, cur, hrow⟩ | hend | ⟨code, hcode, hstop⟩ := Dfl.turn_cases hr
  · rw [hrow, Dfl.nextRow_dphase] at hfault
    exact absurd (hr.symm.trans hfault) nofun
  · rw [hend] at hfault
    exact absurd hfault nofun
  · have herr : s.dfl.turn.err = code := by rw [hstop]; rfl
    rw [herr]
    exact ⟨hcode, _, rfl, by rw [State.onDfl, hstop, Dfl.filterByte]⟩

/-! ### The rows that are left bound the run (R242, R243) -/

/-- The rows of the sub-images from `p` on. -/
def Dfl.rowsFrom (u : Dfl) (p : Nat) : Nat := ((List.range' p (u.npass.toNat - p)).map fun k => u.rows.getD k 0).sum

/-- The rows of the run that are not reconstructed yet. -/
def Dfl.rowsLeft (u : Dfl) : Nat := u.rowsFrom u.pass - u.row

/-- DEF stands at a row of a sub-image, or past the last one. -/
def Dfl.atRow (u : Dfl) : Prop := u.pass ≤ u.npass.toNat ∧ (u.pass < u.npass.toNat → u.row < u.rows.getD u.pass 0)

theorem Dfl.rowsFrom_zero (u : Dfl) : u.rowsFrom 0 = ((List.range u.npass.toNat).map fun k => u.rows.getD k 0).sum := by
  rw [Dfl.rowsFrom, List.range_eq_range', Nat.sub_zero]

/-- The rows of one sub-image, then the later ones. -/
theorem Dfl.rowsFrom_eq_add {u : Dfl} {p : Nat} (hp : p < u.npass.toNat) :
    u.rowsFrom p = u.rows.getD p 0 + u.rowsFrom (p + 1) := by
  have hcount : u.npass.toNat - p = (u.npass.toNat - (p + 1)) + 1 := by omega
  rw [Dfl.rowsFrom, hcount, List.range'_succ, List.map_cons, List.sum_cons, Dfl.rowsFrom]

theorem Dfl.rowsFrom_of_le {u : Dfl} {p : Nat} (hp : u.npass.toNat ≤ p) : u.rowsFrom p = 0 := by
  rw [Dfl.rowsFrom, Nat.sub_eq_zero_of_le hp]
  rfl

theorem Dfl.rowsFrom_le_of_le (u : Dfl) {p q : Nat} (h : p ≤ q) : u.rowsFrom q ≤ u.rowsFrom p := by
  induction h with
  | refl => exact Nat.le_refl _
  | @step m _ ih =>
    refine Nat.le_trans ?_ ih
    by_cases hm : m < u.npass.toNat
    · rw [Dfl.rowsFrom_eq_add hm]
      exact Nat.le_add_left _ _
    · rw [Dfl.rowsFrom_of_le (Nat.le_succ_of_le (Nat.not_lt.1 hm))]
      exact Nat.zero_le _

/-- Where `nextpass` enters a sub-image there is a row. -/
theorem Dfl.enterPass_atRow {u : Dfl} {p : Nat} (hp : p ≤ u.npass.toNat) : (u.enterPass p).atRow := by
  obtain ⟨-, hle, hfound, -⟩ := nextSubImage u p hp
  exact ⟨hle, fun hlt => (hfound hlt).2⟩

/-- Going on after a row, to the next sub-image if it was the last, skips no rows. -/
theorem Dfl.nextRow_rowsLeft {u : Dfl} (hp : u.pass < u.npass.toNat) (hrow : u.row ≤ u.rows.getD u.pass 0) :
    u.nextRow.atRow ∧ u.nextRow.rowsLeft ≤ u.rowsLeft := by
  unfold Dfl.nextRow
  split
  case isTrue hlast =>
    obtain ⟨hge, -⟩ := nextSubImage u (u.pass + 1) hp
    refine ⟨Dfl.enterPass_atRow hp, ?_⟩
    calc (u.enterPass (u.pass + 1)).rowsLeft = u.rowsFrom (u.nextPass (u.pass + 1)) := rfl
      _ ≤ u.rowsFrom (u.pass + 1) := u.rowsFrom_le_of_le hge
      _ = u.rowsLeft := by rw [Dfl.rowsLeft, Dfl.rowsFrom_eq_add hp, hlast, Nat.add_sub_cancel_left]
  case isFalse hmore => exact ⟨⟨Nat.le_of_lt hp, fun _ => Nat.lt_of_le_of_ne hrow hmore⟩, Nat.le_refl _⟩

/-- A turn of DEF in `ROW` ends the run, or leaves fewer rows. -/
theorem Dfl.turn_ends_or_rowsLeft_lt {u : Dfl} (hr : u.dphase = .row) (hat : u.atRow) :
    (u.turn.dphase = .done ∨ u.turn.dphase = .fault) ∨
    u.turn.dphase = .row ∧ u.turn.atRow ∧ u.turn.rowsLeft < u.rowsLeft := by
  obtain ⟨hp, ft, cur, hrow⟩ | hend | ⟨code, -, hstop⟩ := Dfl.turn_cases hr
  · have hlt : u.row < u.rows.getD u.pass 0 := hat.2 hp
    obtain ⟨hat', hle⟩ := Dfl.nextRow_rowsLeft (u := (u.readFilter ft).rowDone cur) hp hlt
    have hdone : ((u.readFilter ft).rowDone cur).rowsLeft = u.rowsFrom u.pass - (u.row + 1) := rfl
    have hleft : u.rowsLeft = u.rowsFrom u.pass - u.row := rfl
    have hsum := Dfl.rowsFrom_eq_add hp
    rw [hrow, Dfl.nextRow_dphase]
    exact .inr ⟨hr, hat', by omega⟩
  · exact .inl (.inl (by rw [hend]; rfl))
  · exact .inl (.inr (by rw [hstop]; rfl))

/-- From a row on, DEF ends after at most one turn for each row left and one more. -/
theorem exists_dflTurns_of_rowsLeft_le {m : Nat} {s : State} (hr : s.dfl.dphase = .row) (hat : s.dfl.atRow)
    (hm : s.dfl.rowsLeft ≤ m) :
    ∃ n r, n ≤ m + 1 ∧ dflTurns n s = some r ∧ (r.dfl.dphase = .done ∨ r.dfl.dphase = .fault) := by
  induction m generalizing s with
  | zero =>
    obtain hends | ⟨-, -, hlt⟩ := Dfl.turn_ends_or_rowsLeft_lt hr hat
    · exact ⟨1, _, Nat.le_refl _, by rw [dflTurns, dflTurn_eq fun _ => hat.1]; rfl, hends⟩
    · omega
  | succ m ih =>
    obtain hends | ⟨hr', hat', hlt⟩ := Dfl.turn_ends_or_rowsLeft_lt hr hat
    · exact ⟨1, _, by omega, by rw [dflTurns, dflTurn_eq fun _ => hat.1]; rfl, hends⟩
    · obtain ⟨n, r, hn, hrun, hends⟩ := ih (s := s.onDfl Dfl.turn) hr' hat' (Nat.le_of_lt_succ (Nat.lt_of_lt_of_le hlt hm))
      exact ⟨n + 1, r, by omega, by rw [dflTurns, dflTurn_eq fun _ => hat.1]; exact hrun, hends⟩

/-- A START that sets DEF running was not ignored, and found a legal configuration. -/
theorem legal_start_of_exec_defStart {s t : State} (hs : s.dfl.dphase ≠ .row) (h : exec .defStart s = .next t)
    (ht : t.dfl.dphase = .row) : s.dfl.configLegal = true ∧ t = s.onDfl Dfl.start := by
  obtain ⟨-, -, -, hex⟩ | ⟨-, hex⟩ := execDefStart_cases s <;> cases hex.symm.trans h
  · cases hlegal : s.dfl.configLegal with
    | true => exact ⟨rfl, rfl⟩
    | false =>
      rw [State.onDfl_dfl, Dfl.start_of_illegal _ hlegal] at ht
      exact absurd ht nofun
  · exact absurd ht hs

/-- Settles O57: START enters the first non-empty sub-image with all its rows left, and every turn that does not end the run
leaves fewer (`Dfl.turn_ends_or_rowsLeft_lt`). -/
theorem everyDefRunEnds : Obligations.EveryDefRunEnds := by
  unfold Obligations.EveryDefRunEnds
  intro s t _ _ hs h ht
  obtain ⟨hlegal, rfl⟩ := legal_start_of_exec_defStart hs h ht
  have hstart := Dfl.start_of_legal s.dfl hlegal
  have hat : s.dfl.start.atRow := by
    rw [hstart]
    exact Dfl.enterPass_atRow (u := s.dfl) (Nat.zero_le _)
  have hleft : s.dfl.start.rowsLeft ≤ s.dfl.rowsFrom 0 := by
    rw [hstart]
    exact s.dfl.rowsFrom_le_of_le (Nat.zero_le _)
  rw [← Dfl.rowsFrom_zero]
  exact exists_dflTurns_of_rowsLeft_le ht hat hleft

/-! ### The Paeth predictor (R249) -/

/-- The three branches of `paeth`, with the distances of the candidates from `p` that lead to each. -/
theorem paeth_cases (a b c : Nat) {p : Int} (hp : p = a + b - c) :
    (paeth a b c = a ∧ (p - a).natAbs ≤ (p - b).natAbs ∧ (p - a).natAbs ≤ (p - c).natAbs) ∨
    (paeth a b c = b ∧ ((p - b).natAbs < (p - a).natAbs ∨ (p - c).natAbs < (p - a).natAbs) ∧
      (p - b).natAbs ≤ (p - c).natAbs) ∨
    (paeth a b c = c ∧ (p - c).natAbs < (p - a).natAbs ∧ (p - c).natAbs < (p - b).natAbs) := by
  subst hp
  unfold paeth
  dsimp only
  split
  · exact .inl ⟨rfl, ‹_›⟩
  · split
    · exact .inr (.inl ⟨rfl, by omega, ‹_›⟩)
    · exact .inr (.inr ⟨rfl, by omega, by omega⟩)

/-- With nothing above, Paeth predicts as Sub does: the left byte is at distance 0. -/
theorem paeth_zero_zero_right (a : Nat) : paeth a 0 0 = a := by
  obtain ⟨h, -⟩ | ⟨-, h, -⟩ | ⟨-, h, -⟩ := paeth_cases a 0 0 rfl
  · exact h
  all_goals omega

/-- With nothing to the left, Paeth predicts as Up does: the byte above is at distance 0. -/
theorem paeth_zero_left_zero_right (b : Nat) : paeth 0 b 0 = b := by
  obtain ⟨h, hle, -⟩ | ⟨h, -⟩ | ⟨-, -, h⟩ := paeth_cases 0 b 0 rfl
  · rw [h]
    omega
  · exact h
  · omega

/-- Settles O36: in each branch of `paeth` (`paeth_cases`) the tests that lead there say which candidate is closest. -/
theorem paethSelectsTheClosest : Obligations.PaethSelectsTheClosest := by
  unfold Obligations.PaethSelectsTheClosest
  intro a b c _ _ _ p r
  have hcases := paeth_cases a b c (p := p) rfl
  have hrow : pred 4 a 0 0 = pred 1 a 0 0 := paeth_zero_zero_right a
  have hpixel : pred 4 0 b 0 = pred 2 0 b 0 := paeth_zero_left_zero_right b
  clear_value p
  obtain ⟨hr, hab, hac⟩ | ⟨hr, ha, hbc⟩ | ⟨hr, hca, hcb⟩ := hcases
  · rw [show r = a from hr]
    exact ⟨.inl rfl, Nat.le_refl _, hab, hac, fun _ _ => rfl, by omega, hrow, hpixel⟩
  · rw [show r = b from hr]
    exact ⟨.inr (.inl rfl), by omega, Nat.le_refl _, hbc, by omega, fun _ _ => rfl, hrow, hpixel⟩
  · rw [show r = c from hr]
    exact ⟨.inr (.inr rfl), Nat.le_of_lt hca, Nat.le_of_lt hcb, Nat.le_refl _, by omega, by omega, hrow, hpixel⟩

/-! ### The start of DEF (R241) -/

/-- A START that is not ignored, of a run that fits. -/
theorem exec_defStart_of_fits {s : State} (hbusy : s.dfl.flags.busy = false) (hfault : s.dfl.flags.fault = false)
    (hfits : s.dflFits) : exec .defStart s = .next (s.onDfl Dfl.start) := by
  obtain ⟨-, -, -, hex⟩ | ⟨hno, -⟩ := execDefStart_cases s
  · exact hex
  · simp [hbusy, hfault, hfits] at hno

/-- Settles O38: the cases of DEF.START (`execDefStart_cases`) and the check of the configuration (`Dfl.configLegal_iff`). -/
theorem defStart : Obligations.DefStart := by
  unfold Obligations.DefStart
  refine fun s => ⟨fun hb hf hfits h1 h8 hn1 hn7 => ?_, fun hb hf hfits hbad => ?_, fun hno => ?_⟩
  · have hlegal := (Dfl.configLegal_iff s.dfl).2 ⟨⟨h1, h8⟩, hn1, hn7⟩
    rw [exec_defStart_of_fits hb hf hfits, State.onDfl, Dfl.start_of_legal _ hlegal]
    rfl
  · have hillegal : s.dfl.configLegal = false := by
      rw [Bool.eq_false_iff, ne_eq, Dfl.configLegal_iff]
      omega
    rw [exec_defStart_of_fits hb hf hfits, State.onDfl, Dfl.start_of_illegal _ hillegal]
    rfl
  · obtain ⟨hb, hf, -⟩ | ⟨-, hex⟩ := execDefStart_cases s
    · simp [hb, hf] at hno
    · exact hex

end Sys2Proof.Machine

/-! PROOFS. What one turn of INF can do, which instructions it runs, and that its faults are precise; O50. -/

namespace Sys2Proof

/-! ### The instructions INF fetches (30_encoding.md R111) -/

/-- The instructions that begin an element of INF: all of its stream but the distance half of a match. -/
inductive Instr.BeginsElement : Instr → Prop
  | zhdr (cmf flg : Byte) : BeginsElement (.zhdr cmf flg)
  | blkStored (bfinal : Bool) : BeginsElement (.blkStored bfinal)
  | blkFixed (bfinal : Bool) : BeginsElement (.blkFixed bfinal)
  | blkDyn (bfinal : Bool) : BeginsElement (.blkDyn bfinal)
  | blkRsv (bfinal : Bool) : BeginsElement (.blkRsv bfinal)
  | stored (len nlen : BitVec 16) : BeginsElement (.stored len nlen)
  | dynhdr (hlit hdist : BitVec 5) (hclen : BitVec 4) : BeginsElement (.dynhdr hlit hdist hclen)
  | clens (lens : List (BitVec 3)) : BeginsElement (.clens lens)
  | codeLength {i : Instr} {sym k x : Nat} (hi : i.coded = some ⟨.codeLength, sym, k, x⟩) : BeginsElement i
  | tables : BeginsElement .tables
  | literalLength {i : Instr} {sym k x : Nat} (hi : i.coded = some ⟨.literalLength, sym, k, x⟩) : BeginsElement i
  | ztrailer (t : Word) : BeginsElement (.ztrailer t)

/-- A block header's field is one of the four headers. -/
theorem mkBlock_beginsElement (v : Nat) : (mkBlock v).BeginsElement := by
  unfold mkBlock
  dsimp only
  split
  · exact .blkStored _
  · exact .blkFixed _
  · exact .blkDyn _
  · exact .blkRsv _

/-- In the distance context the decoder answers distance symbols. -/
theorem coded_of_decode_dist {d : List CodeLen} {bits rest : List Bool} {i : Instr}
    (h : decode (.dist d) bits = .ok (i, rest)) : ∃ t k x, i.coded = some ⟨.distance, t, k, x⟩ := by
  obtain ⟨t, x, hmk, -⟩ := decodeCoded_ok h
  exact ⟨t, _, _, mkDist_coded hmk⟩

end Sys2Proof

namespace Sys2Proof.Machine

open Sys2Proof

/-- With no match half done, what INF fetches begins an element. -/
theorem Inf.beginsElement_of_decode {u : Inf} {c : Ctx} {bits rest : List Bool} {i : Instr} (hm : u.matchLen = none)
    (hc : u.ctx = some c) (hd : decode c bits = .ok (i, rest)) : i.BeginsElement := by
  unfold Inf.ctx at hc
  rw [hm, Option.isSome_none, if_neg Bool.false_ne_true] at hc
  cases hphase : u.phase <;> simp only [hphase, reduceCtorEq, Option.some.injEq] at hc
  case dynlens =>
    split at hc <;> cases hc
    · cases hd; exact .tables
    · obtain ⟨sym, x, hmk, -⟩ := decodeCoded_ok hd
      exact .codeLength (mkCl_coded hmk)
  case sym =>
    subst hc
    obtain ⟨sym, x, hmk, -⟩ := decodeCoded_ok hd
    exact .literalLength (mkSym_coded hmk)
  all_goals
    subst hc
    simp only [decode, orEnd_eq_ok_iff, Option.bind_eq_bind, Option.bind_eq_some_iff, Prod.exists, Option.some.injEq,
      Prod.mk.injEq] at hd
  case zhdr => obtain ⟨cmf, _, _, flg, _, _, rfl, _⟩ := hd; exact .zhdr _ _
  case blkhdr => obtain ⟨v, _, _, rfl, _⟩ := hd; exact mkBlock_beginsElement v
  case stored => obtain ⟨len, _, _, nlen, _, _, rfl, _⟩ := hd; exact .stored _ _
  case dynhdr => obtain ⟨hlit, _, _, hdist, _, _, hclen, _, _, rfl, _⟩ := hd; exact .dynhdr _ _ _
  case dynclen => obtain ⟨lens, _, _, rfl, _⟩ := hd; exact .clens lens
  case trailer => obtain ⟨t, _, _, rfl, _⟩ := hd; exact .ztrailer t

/-- With a match half done, INF fetches a distance symbol. -/
theorem Inf.coded_of_decode_half {u : Inf} {c : Ctx} {bits rest : List Bool} {i : Instr} (hm : u.matchLen.isSome)
    (hc : u.ctx = some c) (hd : decode c bits = .ok (i, rest)) : ∃ t k x, i.coded = some ⟨.distance, t, k, x⟩ := by
  unfold Inf.ctx at hc
  rw [if_pos hm] at hc
  cases hc
  exact coded_of_decode_dist hd

/-! ### A turn of INF changes INF alone (10_state.md R20) -/

/-- A Huffman-coded element changes INF alone. -/
theorem exec_coded_onlyInf {i : Instr} {c : Coded} (hi : i.coded = some c) (s : State) :
    ∃ v, exec i s = .next { s with inf := v } := by
  obtain ⟨a, sym, k, x⟩ := c
  cases a with
  | codeLength => exact ⟨_, (exec_codeLength i sym k x s hi).2.2.2⟩
  | literalLength => exact ⟨_, (exec_literalLength i sym k x s hi).2.2.2⟩
  | distance => exact ⟨_, (exec_distance i sym k x s hi).2.2.2⟩

/-- An instruction that begins an element changes INF alone. -/
theorem exec_beginsElement_onlyInf {i : Instr} (hi : i.BeginsElement) (s : State) :
    ∃ v, exec i s = .next { s with inf := v } := by
  cases hi with
  | codeLength hc | literalLength hc => exact exec_coded_onlyInf hc s
  | _ => exact ⟨_, rfl⟩

/-- Fetching and running an instruction of INF answers a next state, with INF alone changed. -/
theorem infFetchRun_onlyInf (s : State) : ∃ v, infFetchRun s = .next { s with inf := v } := by
  unfold infFetchRun
  split
  · exact ⟨s.inf, rfl⟩
  · rename_i c hc
    split
    · rename_i i rest hd
      cases hm : s.inf.matchLen with
      | none => exact exec_beginsElement_onlyInf (Inf.beginsElement_of_decode hm hc hd) s
      | some len =>
        obtain ⟨t, k, x, hi⟩ := Inf.coded_of_decode_half (by rw [hm]; rfl) hc hd
        exact exec_coded_onlyInf hi s
    · exact ⟨_, rfl⟩

/-- A turn of INF answers a next state, with INF alone changed. -/
theorem infTurn_onlyInf (s : State) : ∃ v, infTurn s = .next { s with inf := v } := by
  obtain ⟨v, hv⟩ := infFetchRun_onlyInf s
  unfold infTurn
  rw [hv]
  dsimp only
  split
  · obtain ⟨w, hw⟩ := infFetchRun_onlyInf { s with inf := v }
    exact ⟨w, hw⟩
  · exact ⟨v, rfl⟩

/-! ### What an element of INF can do (60_exceptions.md R280, R283) -/

/-- The codes of the faults of INF (R271 to R274). -/
def infFaultCodes : List (BitVec 8) := [2, 15, 16, 17, 18, 32, 33]

/-- What an element makes of INF: it ends without a fault, or is the length half of a match, or takes one of the faults of INF
at its first bit with every other register as it was. -/
inductive Inf.Ran (u : Inf) : Inf → Prop
  | whole {v : Inf} (hphase : v.phase ≠ .fault) (hmatch : v.matchLen = none) : Ran u v
  | half (n len : Nat) : Ran u (u.halfMatched n len)
  | fault {code : BitVec 8} (hcode : code ∈ infFaultCodes) : Ran u (u.stopped code)

theorem Inf.ran_unexpectedEof (u : Inf) : u.Ran (u.stopped 2) := .fault (by decide)

theorem Inf.ran_invalidDeflateStream (u : Inf) : u.Ran (u.stopped 16) := .fault (by decide)

/-- An element that reads bits first does what follows the bits does, or takes `UnexpectedEof`, as long as `elem_start` is the
element's first bit. -/
theorem Inf.ran_take {u v : Inf} {n : Nat} {k : Inf → Inf} (hstop : v.raise .unexpectedEof = u.stopped 2)
    (hk : u.Ran (k (v.advance n))) : u.Ran (v.take n k) := by
  obtain ⟨-, he⟩ | ⟨-, he⟩ := Inf.take_cases n k v <;> rw [he]
  · exact hk
  · rw [hstop]; exact u.ran_unexpectedEof

/-- The end of a block is no fault. -/
theorem Inf.blockEnd_phase_ne_fault (u : Inf) : u.blockEnd.phase ≠ .fault := by
  rw [Inf.blockEnd]
  split <;> nofun

/-- Table completion goes on, or faults on the unit as the step found it. -/
theorem Inf.ran_completeTables {p : Policy} {u v : Inf} (hm : v.matchLen = none) :
    u.Ran (Inf.completeTables p u.begin v) := by
  obtain ⟨-, -, -, -, he⟩ | he := Inf.completeTables_cases p u.begin v <;> rw [he]
  · exact .whole nofun hm
  · exact u.ran_invalidDeflateStream

/-- Nor can the end of a code-length element do anything else. -/
theorem Inf.ran_endLens {p : Policy} {u v : Inf} (hphase : v.phase ≠ .fault) (hm : v.matchLen = none) :
    u.Ran (Inf.endLens p u.begin v) := by
  obtain ⟨-, he⟩ | ⟨-, he⟩ := Inf.endLens_cases p u.begin v <;> rw [he]
  · exact .whole hphase hm
  · exact Inf.ran_completeTables hm

/-- Appending code lengths is no fault and leaves no match half done. -/
theorem Inf.appendLens_phase_matchLen (n : Nat) (l : CodeLen) (u : Inf) :
    (u.appendLens n l).phase = u.phase ∧ (u.appendLens n l).matchLen = u.matchLen := by
  obtain ⟨-, -, -, hregs⟩ := Inf.appendLens_regs n l u
  rw [hregs]
  exact ⟨rfl, rfl⟩

section Elements

variable {u : Inf} (hm : u.matchLen = none)

include hm

/-- Appending code lengths in an element of `u`, then its end. -/
theorem Inf.ran_endLens_appendLens (hphase : u.phase ≠ .fault) {p : Policy} {v : Inf} (n : Nat) (l : CodeLen)
    (hvp : v.phase = u.phase) (hvm : v.matchLen = u.matchLen) : u.Ran (Inf.endLens p u.begin (v.appendLens n l)) := by
  obtain ⟨hp, hl⟩ := Inf.appendLens_phase_matchLen n l v
  exact Inf.ran_endLens (by rwa [hp, hvp]) (by rw [hl, hvm, hm])

theorem Inf.ran_clExplicit (hphase : u.phase ≠ .fault) (v : Nat) (p : Policy) : u.Ran (u.clExplicit v p) := by
  unfold Inf.clExplicit
  exact Inf.ran_take rfl (Inf.ran_endLens_appendLens hm hphase _ _ rfl rfl)

theorem Inf.ran_clRepeat (hphase : u.phase ≠ .fault) (x : Nat) (p : Policy) : u.Ran (u.clRepeat x p) := by
  unfold Inf.clRepeat
  refine Inf.ran_take rfl ?_
  split
  · exact u.ran_invalidDeflateStream
  · refine Inf.ran_take rfl ?_
    split
    · exact u.ran_invalidDeflateStream
    · exact Inf.ran_endLens_appendLens hm hphase _ _ rfl rfl

theorem Inf.ran_clZeros (hphase : u.phase ≠ .fault) (sym x : Nat) (p : Policy) : u.Ran (u.clZeros sym x p) := by
  unfold Inf.clZeros
  refine Inf.ran_take rfl ?_
  split
  · exact u.ran_invalidDeflateStream
  · exact Inf.ran_endLens hphase hm

theorem Inf.ran_zhdr (cmf flg : Byte) : u.Ran (u.zhdr cmf flg) := by
  have hinvalid : u.Ran (u.stopped 15) := .fault (by decide)
  refine Inf.ran_take rfl ?_
  repeat' split
  · exact hinvalid
  · exact hinvalid
  · exact hinvalid
  · exact hinvalid
  · exact .whole nofun hm

theorem Inf.ran_ztrailer (t : Word) : u.Ran (u.ztrailer t) := by
  refine Inf.ran_take rfl ?_
  repeat' split
  · exact .fault (code := 17) (by decide)
  · exact .fault (code := 18) (by decide)
  · exact .fault (code := 32) (by decide)
  · exact .fault (code := 33) (by decide)
  · exact .whole nofun hm

theorem Inf.ran_blockHeader {bfinal : Bool} {btype : BitVec 2} {next : Inf → Inf}
    (hnext : ∀ v, (next v).phase ≠ .fault ∧ (next v).matchLen = v.matchLen) : u.Ran (u.blockHeader bfinal btype next) := by
  unfold Inf.blockHeader
  refine Inf.ran_take rfl ?_
  obtain ⟨hphase, hmatch⟩ := hnext { u.begin.advance 3 with bfinal := bfinal, btype := btype }
  exact .whole hphase (hmatch.trans hm)

theorem Inf.ran_stored (len nlen : BitVec 16) : u.Ran (u.stored len nlen) := by
  refine Inf.ran_take rfl ?_
  split
  · exact u.ran_invalidDeflateStream
  · split
    · exact u.ran_unexpectedEof
    · refine .whole (Inf.blockEnd_phase_ne_fault _) ?_
      obtain ⟨-, -, hregs⟩ := Inf.copyStored_regs len.toNat (u.begin.advance (padBits u.bitpos + 32))
      rw [Inf.blockEnd_matchLen, hregs]
      exact hm

theorem Inf.ran_dynhdr (hlit hdist : BitVec 5) (hclen : BitVec 4) : u.Ran (u.dynhdr hlit hdist hclen) := by
  refine Inf.ran_take rfl ?_
  split
  · exact u.ran_invalidDeflateStream
  · exact .whole nofun hm

theorem Inf.ran_clens (lens : List (BitVec 3)) : u.Ran (u.clens lens) := by
  refine Inf.ran_take rfl ?_
  split
  · exact u.ran_invalidDeflateStream
  · exact .whole nofun hm

end Elements

/-- The distance half of a match copies it, or faults at the first bit of the match. -/
theorem Inf.ran_distanceHalf {u : Inf} (hphase : u.phase ≠ .fault) (n len t x : Nat) :
    u.Ran ((u.halfMatched n len).distanceHalf t x) := by
  refine Inf.ran_take rfl ?_
  dsimp only
  split
  · exact u.ran_invalidDeflateStream
  · refine .whole ?_ rfl
    rw [(Inf.copyMatch_regs ..).2]
    exact hphase

/-- The fault of a rejected fetch is one of INF's. -/
theorem Reject.code_kind_mem (r : Reject) : (Reject.kind r).code ∈ infFaultCodes := by
  cases r <;> decide

section Turn

variable {s t : State} (hphase : s.inf.phase ≠ .fault)

include hphase

/-- What a literal/length symbol can do. -/
theorem exec_literalLength_ran (hm : s.inf.matchLen = none) {i : Instr} {sym k x : Nat}
    (hi : i.coded = some ⟨.literalLength, sym, k, x⟩) (he : exec i s = .next t) : s.inf.Ran t.inf := by
  obtain ⟨-, -, -, hex⟩ := exec_literalLength i sym k x s hi
  cases hex.symm.trans he
  rw [State.onInf_inf]
  split
  · exact Inf.ran_take rfl (.whole hphase hm)
  · split
    · exact Inf.ran_take rfl (.whole (Inf.blockEnd_phase_ne_fault _) hm)
    · split
      · exact Inf.ran_take rfl (.half _ _)
      · exact Inf.ran_take rfl s.inf.ran_invalidDeflateStream

/-- What a code-length symbol can do. -/
theorem exec_codeLength_ran (hm : s.inf.matchLen = none) {i : Instr} {sym k x : Nat}
    (hi : i.coded = some ⟨.codeLength, sym, k, x⟩) (he : exec i s = .next t) : s.inf.Ran t.inf := by
  obtain ⟨-, -, -, hex⟩ := exec_codeLength i sym k x s hi
  cases hex.symm.trans he
  rw [State.onInf_inf]
  split
  · exact Inf.ran_clExplicit hm hphase _ _
  · split
    · exact Inf.ran_clRepeat hm hphase _ _
    · exact Inf.ran_clZeros hm hphase _ _ _

/-- What an instruction that begins an element can do. -/
theorem exec_beginsElement_ran (hm : s.inf.matchLen = none) {i : Instr} (hi : i.BeginsElement) (he : exec i s = .next t) :
    s.inf.Ran t.inf := by
  cases hi with
  | codeLength hc => exact exec_codeLength_ran hphase hm hc he
  | literalLength hc => exact exec_literalLength_ran hphase hm hc he
  | zhdr cmf flg => cases he; exact Inf.ran_zhdr hm cmf flg
  | blkStored | blkFixed | blkDyn =>
    cases he
    rw [State.onInf_inf]
    exact Inf.ran_blockHeader hm fun v => ⟨nofun, rfl⟩
  | blkRsv => cases he; exact Inf.ran_take rfl s.inf.ran_invalidDeflateStream
  | stored len nlen => cases he; exact Inf.ran_stored hm len nlen
  | dynhdr hlit hdist hclen => cases he; exact Inf.ran_dynhdr hm hlit hdist hclen
  | clens lens => cases he; exact Inf.ran_clens hm lens
  | tables => cases he; exact Inf.ran_completeTables hm
  | ztrailer w => cases he; exact Inf.ran_ztrailer hm w

/-- What the first fetch of a turn can do. -/
theorem infFetchRun_ran (hm : s.inf.matchLen = none) (he : infFetchRun s = .next t) : s.inf.Ran t.inf := by
  unfold infFetchRun at he
  split at he
  · cases he; exact .whole hphase hm
  · rename_i c hc
    split at he
    · rename_i i rest hd
      exact exec_beginsElement_ran hphase hm (Inf.beginsElement_of_decode hm hc hd) he
    · rename_i r hd
      cases he
      rw [State.onInf_inf, Inf.fetchFault_of_whole _ hm]
      exact .fault (Reject.code_kind_mem r)

/-- What the second fetch of a turn, that of a distance symbol, can do. -/
theorem infFetchRun_halfMatched_ran {n len : Nat}
    (he : infFetchRun { s with inf := s.inf.halfMatched n len } = .next t) : s.inf.Ran t.inf := by
  unfold infFetchRun at he
  split at he
  · rename_i hc; cases hc
  · rename_i c hc
    split at he
    · rename_i i rest hd
      obtain ⟨d, k, x, hi⟩ := Inf.coded_of_decode_half (u := s.inf.halfMatched n len) rfl hc hd
      obtain ⟨-, -, -, hex⟩ := exec_distance i d k x _ hi
      cases hex.symm.trans he
      rw [State.onInf_inf]
      split
      · exact Inf.ran_distanceHalf hphase n len d x
      · exact Inf.ran_take rfl s.inf.ran_invalidDeflateStream
    · rename_i r hd
      cases he
      exact .fault (Reject.code_kind_mem r)

/-- What a turn of INF can do. -/
theorem infTurn_ran (hm : s.inf.matchLen = none) (he : infTurn s = .next t) : s.inf.Ran t.inf := by
  obtain ⟨v, hv⟩ := infFetchRun_onlyInf s
  have hran : s.inf.Ran v := infFetchRun_ran hphase hm hv
  have hwhole (hvm : v.matchLen = none) : s.inf.Ran t.inf := by
    rw [infTurn_of_whole fun r hr => by cases hv.symm.trans hr; exact hvm] at he
    exact infFetchRun_ran hphase hm he
  cases hran with
  | whole hvp hvm => exact hwhole hvm
  | half n len => exact infFetchRun_halfMatched_ran hphase (infTurn_of_half hv nofun ▸ he)
  | fault hcode => exact hwhole rfl

end Turn

/-- Settles O50: a turn changes INF alone (`infTurn_onlyInf`), and of what it can do to INF (`infTurn_ran`) only the faults lead to
`FAULT`. -/
theorem faultsOfInfArePrecise : Obligations.FaultsOfInfArePrecise := by
  unfold Obligations.FaultsOfInfArePrecise
  rintro s t ⟨-, -, -, -, -, hm⟩ hrun ht hfault
  have hphase : s.inf.phase ≠ .fault := fun hf => by rw [hf] at hrun; cases hrun
  obtain ⟨v, hv⟩ := infTurn_onlyInf s
  obtain rfl := Host.Outcome.next.inj (ht.symm.trans hv)
  have hran : s.inf.Ran v := infTurn_ran hphase hm ht
  cases hran with
  | whole hne => exact absurd hfault hne
  | half n len => exact absurd hfault hphase
  | fault hcode => exact ⟨hcode, rfl⟩

end Sys2Proof.Machine

/-! PROOFS. Only a reset leads out of `FAULT`, and the first error is kept; O52. -/

namespace Sys2Proof

/-- The commands a register write can be (30_encoding.md R108, 10_state.md R44). -/
theorem mkCommand_cases {u : UnitId} {n v : Nat} {i : Instr} (h : mkCommand u n v = some i) :
    i ∈ [Instr.infReset, .infStart, .defReset, .defStart, .crcReset, .init] ∨ (∃ b, i = .byte b) ∨ ∃ e, i = .check e := by
  unfold mkCommand at h
  split at h
  case h_4 => cases h; exact .inr (.inl ⟨_, rfl⟩)
  case h_5 => cases h; exact .inr (.inr ⟨_, rfl⟩)
  case h_6 => cases h
  all_goals
    split at h
    · cases h; exact .inl (by simp)
    · split at h <;> cases h
      exact .inl (by simp)

end Sys2Proof

namespace Sys2Proof.Machine

open Sys2Proof

/-! ### What a unit in `FAULT` keeps (60_exceptions.md R282, R285, R286) -/

/-- From `u` in `FAULT` to `v`, INF was reset, or changed in nothing but its configuration registers and `IN`. -/
def Inf.KeepsFault (u v : Inf) : Prop :=
  u.controlInv → u.phase = .fault →
    v = Inf.reset (u.epoch + 1) ∨ v = { u with inLen := v.inLen, expectLen := v.expectLen, input := v.input }

/-- From `u` in `FAULT` to `v`, CRC was reset, or not changed. -/
def Crc.KeepsFault (u v : Crc) : Prop := u.cstate = .fault → v = Crc.reset ∨ v = u

/-- From `u` in `FAULT` to `v`, DEF was reset, or changed in nothing but its configuration registers and `DIN`. -/
def Dfl.KeepsFault (u v : Dfl) : Prop :=
  u.flagsInv → u.dphase = .fault →
    v = Dfl.reset (u.epoch + 1) ∨
    v = { u with
      inLen := v.inLen, bpp := v.bpp, npass := v.npass, rowBytes := v.rowBytes, rows := v.rows, din := v.din }

/-- Every unit of `s` keeps its fault in `t`. -/
def State.KeepsFaults (s t : State) : Prop :=
  s.inf.KeepsFault t.inf ∧ s.crc.KeepsFault t.crc ∧ s.dfl.KeepsFault t.dfl

theorem Inf.KeepsFault.refl (u : Inf) : u.KeepsFault u := fun _ _ => .inr rfl

theorem Crc.KeepsFault.refl (u : Crc) : u.KeepsFault u := fun _ => .inr rfl

theorem Dfl.KeepsFault.refl (u : Dfl) : u.KeepsFault u := fun _ _ => .inr rfl

/-- A step of INF alone. -/
theorem State.KeepsFaults.ofInf {s : State} {v : Inf} (h : s.inf.KeepsFault v) : s.KeepsFaults { s with inf := v } :=
  ⟨h, .refl _, .refl _⟩

/-- A step of CRC alone. -/
theorem State.KeepsFaults.ofCrc {s : State} {v : Crc} (h : s.crc.KeepsFault v) : s.KeepsFaults { s with crc := v } :=
  ⟨.refl _, h, .refl _⟩

/-- A step of DEF alone. -/
theorem State.KeepsFaults.ofDfl {s : State} {v : Dfl} (h : s.dfl.KeepsFault v) : s.KeepsFaults { s with dfl := v } :=
  ⟨.refl _, .refl _, h⟩

/-- A step that changes no unit. -/
theorem State.KeepsFaults.ofUnits {s t : State} (hi : t.inf = s.inf) (hc : t.crc = s.crc) (hd : t.dfl = s.dfl) :
    s.KeepsFaults t := by
  rw [State.KeepsFaults, hi, hc, hd]
  exact ⟨.refl _, .refl _, .refl _⟩

/-! ### The commands (10_state.md R44, 43_crc32.md R221 to R223) -/

theorem exec_infStart_keepsFaults {s t : State} (he : exec .infStart s = .next t) : s.KeepsFaults t := by
  obtain ⟨-, hflag, -, hex⟩ | ⟨-, hex⟩ := execInfStart_cases s <;> cases hex.symm.trans he
  · refine .ofInf fun ⟨⟨_, _, hinv, _⟩, _⟩ hphase => ?_
    rw [hphase, hflag] at hinv
    cases hinv
  · exact .ofUnits rfl rfl rfl

theorem exec_defStart_keepsFaults {s t : State} (he : exec .defStart s = .next t) : s.KeepsFaults t := by
  obtain ⟨-, hflag, -, hex⟩ | ⟨-, hex⟩ := execDefStart_cases s <;> cases hex.symm.trans he
  · refine .ofDfl fun ⟨_, _, hinv, _⟩ hphase => ?_
    rw [hphase, hflag] at hinv
    cases hinv
  · exact .ofUnits rfl rfl rfl

theorem Crc.init_keepsFault (u : Crc) : u.KeepsFault u.init := fun h => .inr (if_pos h)

theorem Crc.byte_keepsFault (b : Byte) (u : Crc) : u.KeepsFault (u.byte b) := fun h => .inr (if_pos (by rw [h]; nofun))

theorem Crc.check_keepsFault (e : Word) (u : Crc) : u.KeepsFault (u.check e) := fun h => .inr (if_pos (by rw [h]; nofun))

/-- Every command a register write can be keeps the faults. -/
theorem exec_mkCommand_keepsFaults {u : UnitId} {n v : Nat} {i : Instr} {s t : State} (hi : mkCommand u n v = some i)
    (he : exec i s = .next t) : s.KeepsFaults t := by
  obtain hmem | ⟨b, rfl⟩ | ⟨e, rfl⟩ := mkCommand_cases hi
  · simp only [List.mem_cons, List.not_mem_nil, or_false] at hmem
    obtain rfl | rfl | rfl | rfl | rfl | rfl := hmem
    · cases he; exact .ofInf fun _ _ => .inl rfl
    · exact exec_infStart_keepsFaults he
    · cases he; exact .ofDfl fun _ _ => .inl rfl
    · exact exec_defStart_keepsFaults he
    · cases he; exact .ofCrc fun _ => .inl rfl
    · cases he; exact .ofCrc s.crc.init_keepsFault
  · cases he; exact .ofCrc (s.crc.byte_keepsFault b)
  · cases he; exact .ofCrc (s.crc.check_keepsFault e)

/-! ### The host -/

/-- A write to a register of INF that is no command changes its configuration alone. -/
theorem Inf.writeConfig_keepsFault (n v : Nat) (u : Inf) : u.KeepsFault (u.writeConfig n v) := by
  refine fun _ _ => .inr ?_
  unfold Inf.writeConfig
  repeat' split
  all_goals rfl

/-- A write to a register of DEF that is no command changes its configuration alone. -/
theorem Dfl.writeConfig_keepsFault (n v : Nat) (u : Dfl) : u.KeepsFault (u.writeConfig n v) := by
  refine fun _ _ => .inr ?_
  unfold Dfl.writeConfig
  repeat' split
  all_goals rfl

theorem hostWrite_keepsFaults {u : UnitId} {n v : Nat} {s t : State} (he : hostWrite u n v s = .next t) :
    s.KeepsFaults t := by
  rw [hostWrite_eq] at he
  split at he
  · rename_i i hi
    exact exec_mkCommand_keepsFaults hi he
  · cases he
    cases u with
    | inf => exact .ofInf (s.inf.writeConfig_keepsFault n v)
    | crc => exact .ofUnits rfl rfl rfl
    | dfl => exact .ofDfl (s.dfl.writeConfig_keepsFault n v)

/-- What the host does keeps the faults, or resets the units. -/
theorem hostTurn_keepsFaults {op : HostOp} {s t : State} (he : hostTurn op s = .next t) : s.KeepsFaults t := by
  cases op with
  | write u n v => exact hostWrite_keepsFaults he
  | read u n => cases he; exact .ofUnits rfl rfl rfl
  | fillIn a b =>
    simp only [hostTurn, hostFillIn] at he
    split at he <;> cases he
    exact .ofInf fun _ _ => .inr rfl
  | fillDin a b =>
    simp only [hostTurn, hostFillDin] at he
    split at he <;> cases he
    exact .ofDfl fun _ _ => .inr rfl
  | takeOut a =>
    simp only [hostTurn, hostTakeOut] at he
    repeat' split at he
    all_goals cases he
    all_goals exact .ofUnits rfl rfl rfl
  | takeRaw a =>
    simp only [hostTurn, hostTakeRaw] at he
    repeat' split at he
    all_goals cases he
    all_goals exact .ofUnits rfl rfl rfl
  | handoff =>
    simp only [hostTurn, hostHandoff] at he
    repeat' split at he
    all_goals cases he
    exact .ofDfl fun _ _ => .inr rfl
  | powerOn => cases he; exact ⟨fun _ _ => .inl rfl, fun _ => .inl rfl, fun _ _ => .inl rfl⟩

/-! ### The turns of the units (10_state.md R22, R28) -/

/-- INF in `FAULT` has no step of its own. -/
theorem infTurn_of_fault {s : State} (hphase : s.inf.phase = .fault) (hm : s.inf.matchLen = none) : infTurn s = .next s := by
  have hctx : s.inf.ctx = none := by unfold Inf.ctx; rw [hm, hphase]; rfl
  have hrun : infFetchRun s = .next s := by unfold infFetchRun; rw [hctx]
  rw [infTurn_of_whole fun t ht => by cases hrun.symm.trans ht; exact hm, hrun]

theorem infTurn_keepsFaults {s t : State} (he : infTurn s = .next t) : s.KeepsFaults t := by
  obtain ⟨v, hv⟩ := infTurn_onlyInf s
  obtain rfl := Host.Outcome.next.inj (hv.symm.trans he)
  refine .ofInf fun ⟨_, _, _, _, _, hm⟩ hphase => .inr ?_
  have hsame := Host.Outcome.next.inj (hv.symm.trans (infTurn_of_fault hphase hm))
  rw [show v = s.inf from congrArg State.inf hsame]

theorem dflTurn_keepsFaults {s t : State} (he : dflTurn s = .next t) : s.KeepsFaults t := by
  rw [eq_turn_of_dflTurn he]
  refine .ofDfl fun _ hphase => .inr ?_
  rw [show s.dfl.turn = s.dfl from if_pos (by rw [hphase]; nofun)]

/-- Settles O52: whatever agent the step is of (`step_cases`), every unit keeps its fault. -/
theorem onlyResetLeavesFault : Obligations.OnlyResetLeavesFault := by
  unfold Obligations.OnlyResetLeavesFault
  intro s t h
  suffices hkeeps : s.KeepsFaults t from hkeeps
  obtain ⟨a, k, rfl | hinf | hdfl | ⟨op, hop⟩⟩ := step_cases h
  · exact .ofUnits rfl rfl rfl
  · exact infTurn_keepsFaults (s := { s with agenda := a, tick := k }) hinf
  · exact dflTurn_keepsFaults (s := { s with agenda := a, tick := k }) hdfl
  · exact hostTurn_keepsFaults (s := { s with agenda := a, tick := k }) hop

end Sys2Proof.Machine

/-! PROOFS. A turn of INF as one function of INF. -/

namespace Sys2Proof.Machine

open Sys2Proof

/-! ### INF's turn as a function of INF (00_scope.md R11, 30_encoding.md R111) -/

/-- What a Huffman-coded element makes of INF, by its alphabet, symbol and extra value (R158 to R161, R192 to R199). -/
def Inf.runCoded (p : Policy) (c : Coded) : Inf → Inf :=
  match c.alphabet with
  | .codeLength =>
    if c.sym < 16 then Inf.clExplicit c.sym p else if c.sym = 16 then Inf.clRepeat c.x p else Inf.clZeros c.sym c.x p
  | .literalLength =>
    if c.sym < 256 then fun u => u.begin.take (u.symBits c.sym) (Inf.emit (BitVec.ofNat 8 c.sym))
    else if c.sym = 256 then fun u => u.begin.take (u.symBits 256) Inf.blockEnd
    else if c.sym ≤ 285 then Inf.lengthHalf c.sym c.x else Inf.reservedSym c.sym
  | .distance => if c.sym < 30 then Inf.distanceHalf c.sym c.x else Inf.reservedDist c.sym

/-- What an instruction of INF's stream makes of INF; an instruction of another unit leaves it alone. -/
def Inf.run (p : Policy) (i : Instr) : Inf → Inf :=
  match i.coded with
  | some c => Inf.runCoded p c
  | none =>
    match i with
    | .zhdr cmf flg => Inf.zhdr cmf flg
    | .blkStored bfinal => Inf.blockHeader bfinal 0 fun u => { u with phase := .stored }
    | .blkFixed bfinal => Inf.blockHeader bfinal 1 Inf.loadFixed
    | .blkDyn bfinal => Inf.blockHeader bfinal 2 fun u => { u with phase := .dynhdr }
    | .blkRsv _ => fun u => u.begin.take 3 fun u => u.raise .invalidDeflateStream
    | .stored len nlen => Inf.stored len nlen
    | .dynhdr hlit hdist hclen => Inf.dynhdr hlit hdist hclen
    | .clens lens => Inf.clens lens
    | .tables => fun u => Inf.completeTables p u.begin u.begin
    | .ztrailer t => Inf.ztrailer t
    | _ => id

/-- What fetching one instruction makes of INF. -/
def Inf.fetch (p : Policy) (u : Inf) : Inf :=
  match u.ctx with
  | none => u
  | some c =>
    match decode c u.stream with
    | .ok (i, _) => u.run p i
    | .error r => u.fetchFault (Reject.kind r)

/-- What a turn makes of INF: one element, a match being two instructions (R191). -/
def Inf.turn (p : Policy) (u : Inf) : Inf :=
  if (u.fetch p).matchLen.isSome then (u.fetch p).fetch p else u.fetch p

/-- A Huffman-coded element runs by its alphabet, symbol and extra value. -/
theorem Inf.run_of_coded {i : Instr} {c : Coded} (hi : i.coded = some c) (p : Policy) :
    Inf.run p i = Inf.runCoded p c := by
  unfold Inf.run
  rw [hi]

theorem exec_of_coded {i : Instr} {c : Coded} (hi : i.coded = some c) (s : State) :
    exec i s = .next (s.onInf (Inf.run s.params.incomplete i)) := by
  rw [Inf.run_of_coded hi]
  obtain ⟨a, sym, k, x⟩ := c
  cases a with
  | codeLength => exact (exec_codeLength i sym k x s hi).2.2.2
  | literalLength => exact (exec_literalLength i sym k x s hi).2.2.2
  | distance => exact (exec_distance i sym k x s hi).2.2.2

theorem exec_of_beginsElement {i : Instr} (hi : i.BeginsElement) (s : State) :
    exec i s = .next (s.onInf (Inf.run s.params.incomplete i)) := by
  cases hi with
  | codeLength hc | literalLength hc => exact exec_of_coded hc s
  | _ => rfl

theorem Inf.fetch_of_decode {u : Inf} {c : Ctx} {i : Instr} {rest : List Bool} (hc : u.ctx = some c)
    (hd : decode c u.stream = .ok (i, rest)) (p : Policy) : u.fetch p = u.run p i := by
  unfold Inf.fetch
  rw [hc]
  dsimp only
  rw [hd]

theorem Inf.fetch_of_reject {u : Inf} {c : Ctx} {r : Reject} (hc : u.ctx = some c) (hd : decode c u.stream = .error r)
    (p : Policy) : u.fetch p = u.fetchFault (Reject.kind r) := by
  unfold Inf.fetch
  rw [hc]
  dsimp only
  rw [hd]

/-- Fetching and running one instruction changes INF alone, and by its registers, its input and P_INCOMPLETE alone. -/
theorem infFetchRun_eq (s : State) : infFetchRun s = .next (s.onInf (Inf.fetch s.params.incomplete)) := by
  cases hc : s.inf.ctx with
  | none => simp [infFetchRun, State.onInf, Inf.fetch, hc]
  | some c =>
    cases hd : decode c s.inf.stream with
    | error r => rw [infFetchRun_of_reject hc hd, State.onInf, State.onInf, Inf.fetch_of_reject hc hd]
    | ok a =>
      obtain ⟨i, rest⟩ := a
      rw [infFetchRun_of_decode hc hd, State.onInf, Inf.fetch_of_decode hc hd]
      cases hm : s.inf.matchLen with
      | none => exact exec_of_beginsElement (Inf.beginsElement_of_decode hm hc hd) s
      | some len =>
        obtain ⟨t, k, x, hi⟩ := Inf.coded_of_decode_half (by rw [hm]; rfl) hc hd
        exact exec_of_coded hi s

/-- A turn of INF is `Inf.turn`, whatever the other units hold (10_state.md R20). -/
theorem infTurn_eq (s : State) : infTurn s = .next (s.onInf (Inf.turn s.params.incomplete)) := by
  unfold infTurn
  rw [infFetchRun_eq]
  simp only [infFetchRun_eq, State.onInf, Inf.turn]
  split <;> rfl

theorem eq_turn_of_infTurn {s t : State} (h : infTurn s = .next t) : t = s.onInf (Inf.turn s.params.incomplete) :=
  (Host.Outcome.next.inj ((infTurn_eq s).symm.trans h)).symm

end Sys2Proof.Machine

/-! PROOFS. What each element makes of INF, phase by phase. -/

namespace Sys2Proof.Machine

open Sys2Proof

/-! ### What one turn makes of INF -/

/-- `v` is `u` with code lengths appended: copies of a value, or a run of zeros (R158 to R161). -/
inductive Inf.Appended (u : Inf) : Inf → Prop
  | lens {r : Nat} (v : CodeLen) (hr : r = 1 ∨ u.lidx + r ≤ u.nlen + u.ndist) : Appended u (u.appendLens r v)
  | zeros {r : Nat} (hr : u.lidx + r ≤ u.nlen + u.ndist) : Appended u { u with lidx := u.lidx + r }

/-- What table completion accepts, whatever P_INCOMPLETE is (R162). -/
def Inf.tablesComplete (u : Inf) : Prop :=
  classify u.llLen = .complete ∧ u.llLen.getD 256 0 ≠ 0 ∧ classify u.dLen ≠ .overSubscribed

/-- What a turn makes of INF when no match is half done: the unit has no step, or takes a fault at the element's first bit,
or runs the element of its phase, whose bits are there. -/
inductive Inf.Element (u : Inf) : Inf → Prop
  | quiet (hphase : u.phase.running = false) : Element u u
  | fault {code : BitVec 8} (hcode : code ∈ infFaultCodes) : Element u (u.stopped code)
  | zhdr (hphase : u.phase = .zhdr) (hfit : u.bitpos + 16 ≤ 8 * u.inLen) :
      Element u { u.consumed 16 with phase := .blkhdr }
  | blockHeader (hphase : u.phase = .blkhdr) (hfit : u.bitpos + 3 ≤ 8 * u.inLen) (bfinal : Bool) (btype : BitVec 2)
      {next : Phase} (hnext : next = .stored ∨ next = .dynhdr) :
      Element u { u.consumed 3 with bfinal := bfinal, btype := btype, phase := next }
  | fixed (hphase : u.phase = .blkhdr) (hfit : u.bitpos + 3 ≤ 8 * u.inLen) (bfinal : Bool) :
      Element u (Inf.loadFixed { u.consumed 3 with bfinal := bfinal, btype := 1 })
  | stored {n len : Nat} (hphase : u.phase = .stored) (hn : 0 < n) (hfit : u.bitpos + n + 8 * len ≤ 8 * u.inLen) :
      Element u ((u.consumed n).copyStored len).blockEnd
  | dynhdr {nlen ndist ncode : Nat} (hphase : u.phase = .dynhdr) (hfit : u.bitpos + 14 ≤ 8 * u.inLen)
      (hnlen : 257 ≤ nlen ∧ nlen ≤ maxLCodes) (hndist : 1 ≤ ndist ∧ ndist ≤ maxDCodes) (hncode : 4 ≤ ncode ∧ ncode ≤ 19) :
      Element u { u.consumed 14 with
        nlen := nlen, ndist := ndist, ncode := ncode, llLen := List.replicate 288 0, dLen := List.replicate 32 0
        clLen := List.replicate 19 0, lidx := 0, phase := .dynclen }
  | clens {lens : List (BitVec 3)} (hphase : u.phase = .dynclen) (hlens : lens.length = u.ncode)
      (hfit : u.bitpos + 3 * lens.length ≤ 8 * u.inLen) (hcomplete : classify (placeLens u.clLen lens) = .complete) :
      Element u { u.consumed (3 * lens.length) with clLen := placeLens u.clLen lens, phase := .dynlens }
  | append {n : Nat} {v : Inf} (hphase : u.phase = .dynlens) (hlidx : u.lidx ≠ u.nlen + u.ndist) (hn : 0 < n)
      (hfit : u.bitpos + n ≤ 8 * u.inLen) (hv : (u.consumed n).Appended v) (hmore : v.lidx ≠ v.nlen + v.ndist) :
      Element u v
  | complete {n : Nat} {v : Inf} (hphase : u.phase = .dynlens) (hlidx : u.lidx ≠ u.nlen + u.ndist) (hn : 0 < n)
      (hfit : u.bitpos + n ≤ 8 * u.inLen) (hv : (u.consumed n).Appended v) (htables : v.tablesComplete) :
      Element u { v with phase := .sym }
  | tables (hphase : u.phase = .dynlens) (hlidx : u.lidx = u.nlen + u.ndist) (htables : u.tablesComplete) :
      Element u { u.consumed 0 with phase := .sym }
  | literal {n : Nat} (hphase : u.phase = .sym) (hn : 0 < n) (hfit : u.bitpos + n ≤ 8 * u.inLen) (b : Byte) :
      Element u ((u.consumed n).emit b)
  | endOfBlock {n : Nat} (hphase : u.phase = .sym) (hn : 0 < n) (hfit : u.bitpos + n ≤ 8 * u.inLen) :
      Element u (u.consumed n).blockEnd
  | copied {n : Nat} (hphase : u.phase = .sym) (hn : 0 < n) (hfit : u.bitpos + n ≤ 8 * u.inLen) (len dist : Nat) :
      Element u ((u.copyMatch len dist).consumed n)
  | trailer {n : Nat} (hphase : u.phase = .trailer) (hn : 0 < n) (hfit : u.bitpos + n ≤ 8 * u.inLen) :
      Element u { u.consumed n with phase := .done, flags := .ended }

/-! ### Each element -/

theorem Inf.element_unexpectedEof (u : Inf) : u.Element (u.stopped 2) := .fault (by decide)

theorem Inf.element_invalidDeflateStream (u : Inf) : u.Element (u.stopped 16) := .fault (by decide)

/-- An element that reads bits first does what follows the bits does, or takes `UnexpectedEof`. -/
theorem Inf.element_take {u : Inf} {n : Nat} {k : Inf → Inf}
    (hk : u.bitpos + n ≤ 8 * u.inLen → u.Element (k (u.consumed n))) : u.Element (u.begin.take n k) := by
  obtain ⟨hfit, he⟩ | ⟨-, he⟩ := Inf.take_cases n k u.begin <;> rw [he]
  · exact hk hfit
  · exact u.element_unexpectedEof

theorem Inf.element_zhdr {u : Inf} (hphase : u.phase = .zhdr) (cmf flg : Byte) : u.Element (u.zhdr cmf flg) := by
  have hinvalid : u.Element (u.stopped 15) := .fault (by decide)
  refine Inf.element_take fun hfit => ?_
  repeat' split
  · exact hinvalid
  · exact hinvalid
  · exact hinvalid
  · exact hinvalid
  · exact .zhdr hphase hfit

theorem Inf.element_ztrailer {u : Inf} (hphase : u.phase = .trailer) (t : Word) : u.Element (u.ztrailer t) := by
  refine Inf.element_take fun hfit => ?_
  repeat' split
  · exact .fault (code := 17) (by decide)
  · exact .fault (code := 18) (by decide)
  · exact .fault (code := 32) (by decide)
  · exact .fault (code := 33) (by decide)
  · exact .trailer hphase (by omega) hfit

/-- The four block headers. -/
theorem Inf.element_mkBlock {u : Inf} (hphase : u.phase = .blkhdr) (p : Policy) (v : Nat) :
    u.Element (u.run p (mkBlock v)) := by
  unfold mkBlock
  dsimp only
  split
  · show u.Element (u.blockHeader (v % 2 == 1) 0 fun w => { w with phase := .stored })
    exact Inf.element_take fun hfit => .blockHeader hphase hfit _ 0 (.inl rfl)
  · show u.Element (u.blockHeader (v % 2 == 1) 1 Inf.loadFixed)
    exact Inf.element_take fun hfit => .fixed hphase hfit _
  · show u.Element (u.blockHeader (v % 2 == 1) 2 fun w => { w with phase := .dynhdr })
    exact Inf.element_take fun hfit => .blockHeader hphase hfit _ 2 (.inr rfl)
  · exact Inf.element_take (k := fun w => w.raise .invalidDeflateStream) fun _ => u.element_invalidDeflateStream

theorem Inf.element_stored {u : Inf} (hphase : u.phase = .stored) (len nlen : BitVec 16) :
    u.Element (u.stored len nlen) := by
  refine Inf.element_take fun hfit => ?_
  split
  · exact u.element_invalidDeflateStream
  · split
    · exact u.element_unexpectedEof
    · rename_i hbody
      have hpad := add_padBits u.bitpos
      replace hbody : ¬ u.inLen < (u.bitpos + (padBits u.bitpos + 32)) / 8 + len.toNat := hbody
      exact .stored hphase (by omega) (by omega)

theorem Inf.element_dynhdr {u : Inf} (hphase : u.phase = .dynhdr) (hlit hdist : BitVec 5) (hclen : BitVec 4) :
    u.Element (u.dynhdr hlit hdist hclen) := by
  refine Inf.element_take fun hfit => ?_
  split
  · exact u.element_invalidDeflateStream
  · rename_i hcounts
    have hcode := hclen.isLt
    exact .dynhdr hphase hfit ⟨by unfold litLenCount; omega, by omega⟩ ⟨by unfold distCount; omega, by omega⟩
      ⟨by unfold codeLenCount; omega, by unfold codeLenCount; omega⟩

theorem Inf.element_clens {u : Inf} (hphase : u.phase = .dynclen) {lens : List (BitVec 3)} (hlens : lens.length = u.ncode) :
    u.Element (u.clens lens) := by
  refine Inf.element_take fun hfit => ?_
  split
  · exact u.element_invalidDeflateStream
  · rename_i hclass
    exact .clens hphase hlens hfit (Decidable.not_not.1 hclass)

/-- Table completion accepts the tables, or faults on the unit as the step found it (R162). -/
theorem Inf.completeTables_eq_or (p : Policy) (u v : Inf) :
    (v.tablesComplete ∧ Inf.completeTables p u.begin v = { v with phase := .sym }) ∨
    Inf.completeTables p u.begin v = u.stopped 16 := by
  obtain ⟨h256, hll, hd, -, he⟩ | he := Inf.completeTables_cases p u.begin v
  · exact .inl ⟨⟨hll, h256, hd⟩, he⟩
  · exact .inr he

theorem Inf.element_tables {u : Inf} (hphase : u.phase = .dynlens) (hlidx : u.lidx = u.nlen + u.ndist) (p : Policy) :
    u.Element (Inf.completeTables p u.begin u.begin) := by
  obtain ⟨htables, he⟩ | he := Inf.completeTables_eq_or p u u.begin <;> rw [he]
  · exact .tables hphase hlidx htables
  · exact u.element_invalidDeflateStream

section CodeLength

variable {u : Inf} (hphase : u.phase = .dynlens) (hlidx : u.lidx ≠ u.nlen + u.ndist)

include hphase hlidx

/-- The end of a code-length element: more lengths to come, or table completion. -/
theorem Inf.element_endLens {n : Nat} (hn : 0 < n) (hfit : u.bitpos + n ≤ 8 * u.inLen) {v : Inf}
    (hv : (u.consumed n).Appended v) (p : Policy) : u.Element (Inf.endLens p u.begin v) := by
  obtain ⟨hmore, he⟩ | ⟨-, he⟩ := Inf.endLens_cases p u.begin v <;> rw [he]
  · exact .append hphase hlidx hn hfit hv hmore
  · obtain ⟨htables, he⟩ | he := Inf.completeTables_eq_or p u v <;> rw [he]
    · exact .complete hphase hlidx hn hfit hv htables
    · exact u.element_invalidDeflateStream

theorem Inf.element_clExplicit {sym : Nat} (hcode : 0 < (u.clLen.getD sym 0).toNat) (p : Policy) :
    u.Element (u.clExplicit sym p) := by
  unfold Inf.clExplicit
  exact Inf.element_take fun hfit => Inf.element_endLens hphase hlidx hcode hfit (.lens _ (.inl rfl)) p

theorem Inf.element_clRepeat (hcode : 0 < (u.clLen.getD 16 0).toNat) (x : Nat) (p : Policy) :
    u.Element (u.clRepeat x p) := by
  by_cases hfit : u.bitpos + (u.clLen.getD 16 0).toNat ≤ 8 * u.inLen
  · rw [Inf.clRepeat_of_code x p hfit]
    split
    · exact u.element_invalidDeflateStream
    · split
      · exact u.element_unexpectedEof
      · split
        · exact u.element_invalidDeflateStream
        · rename_i hextra hover
          have hv : ((u.begin.advance (u.clLen.getD 16 0).toNat).advance (clExtra 16)) =
              u.consumed ((u.clLen.getD 16 0).toNat + clExtra 16) := by
            rw [Inf.consumed, ← Nat.add_assoc]; rfl
          rw [hv]
          exact Inf.element_endLens hphase hlidx (Nat.add_pos_left hcode _) (by omega) (.lens _ (.inr (Nat.not_lt.1 hover))) p
  · rw [Inf.clRepeat_of_short_code x p (Nat.not_le.1 hfit)]
    exact u.element_unexpectedEof

theorem Inf.element_clZeros {sym : Nat} (hcode : 0 < (u.clLen.getD sym 0).toNat) (x : Nat) (p : Policy) :
    u.Element (u.clZeros sym x p) := by
  unfold Inf.clZeros
  refine Inf.element_take fun hfit => ?_
  split
  · exact u.element_invalidDeflateStream
  · rename_i hover
    exact Inf.element_endLens hphase hlidx (Nat.add_pos_left hcode _) hfit (.zeros (Nat.not_lt.1 hover)) p

/-- A code-length element whose symbol has a code. -/
theorem Inf.element_codeLength {sym k x : Nat} (hcode : 0 < (u.clLen.getD sym 0).toNat) (p : Policy) :
    u.Element (u.runCoded p ⟨.codeLength, sym, k, x⟩) := by
  unfold Inf.runCoded
  dsimp only
  split
  · exact Inf.element_clExplicit hphase hlidx hcode p
  · split
    · rename_i h16
      exact Inf.element_clRepeat hphase hlidx (h16 ▸ hcode) x p
    · exact Inf.element_clZeros hphase hlidx hcode x p

end CodeLength

/-- A literal/length symbol that has a code: a whole element, or the length half of a match. -/
theorem Inf.element_literalLength {u : Inf} (hphase : u.phase = .sym) {sym k x : Nat}
    (hcode : 0 < (u.llLen.getD sym 0).toNat) (p : Policy) :
    u.Element (u.runCoded p ⟨.literalLength, sym, k, x⟩) ∨
    ∃ n len, 0 < n ∧ u.bitpos + n ≤ 8 * u.inLen ∧
      u.runCoded p ⟨.literalLength, sym, k, x⟩ = u.halfMatched n len := by
  have hbits : 0 < u.symBits sym := Nat.add_pos_left hcode _
  unfold Inf.runCoded
  dsimp only
  split
  · exact .inl (Inf.element_take fun hfit => .literal hphase hbits hfit _)
  · split
    · rename_i h256
      exact .inl (Inf.element_take fun hfit => .endOfBlock hphase (h256 ▸ hbits) hfit)
    · split
      · by_cases hfit : u.bitpos + u.symBits sym ≤ 8 * u.inLen
        · exact .inr ⟨_, _, hbits, hfit, Inf.take_of_le _ _ u.begin hfit⟩
        · have hshort : u.lengthHalf sym x = u.stopped 2 := Inf.take_of_lt _ _ u.begin (Nat.not_le.1 hfit)
          exact .inl (hshort ▸ u.element_unexpectedEof)
      · exact .inl (Inf.element_take fun _ => u.element_invalidDeflateStream)

/-! ### What one fetch makes of INF -/

/-- The decoder answers as many code-length-code lengths as it is asked for (R95). -/
theorem length_of_takeLens {n : Nat} {bits rest : List Bool} {lens : List (BitVec 3)}
    (h : takeLens n bits = some (lens, rest)) : lens.length = n := by
  induction n generalizing bits lens with
  | zero => cases h; rfl
  | succ n ih =>
    simp only [takeLens] at h
    repeat' split at h
    all_goals cases h
    rw [List.length_cons, ih ‹_›]

theorem pos_of_getD_ne_zero {lens : List CodeLen} {s : Nat} (h : lens.getD s 0 ≠ 0) : 0 < (lens.getD s 0).toNat :=
  Nat.pos_of_ne_zero fun he => h (BitVec.eq_of_toNat_eq he)

/-- With no match half done, a fetch runs a whole element or the length half of a match. -/
theorem Inf.fetch_of_whole {u : Inf} (hm : u.matchLen = none) (p : Policy) :
    u.Element (u.fetch p) ∨
    ∃ n len, u.phase = .sym ∧ 0 < n ∧ u.bitpos + n ≤ 8 * u.inLen ∧ u.fetch p = u.halfMatched n len := by
  unfold Inf.fetch
  split
  · rename_i hc
    refine .inl (.quiet ?_)
    unfold Inf.ctx at hc
    rw [hm, Option.isSome_none, if_neg Bool.false_ne_true] at hc
    cases hphase : u.phase <;> simp only [hphase, reduceCtorEq] at hc ⊢ <;> try rfl
    split at hc <;> cases hc
  · rename_i c hc
    split
    · rename_i i rest hd
      unfold Inf.ctx at hc
      rw [hm, Option.isSome_none, if_neg Bool.false_ne_true] at hc
      cases hphase : u.phase <;> simp only [hphase, reduceCtorEq, Option.some.injEq] at hc
      case dynlens =>
        split at hc <;> cases hc
        · cases hd
          exact .inl (Inf.element_tables hphase ‹_› p)
        · obtain ⟨sym, x, hmk, h0, -⟩ := decodeCoded_ok hd
          rw [Inf.run_of_coded (mkCl_coded hmk)]
          exact .inl (Inf.element_codeLength hphase ‹_› (pos_of_getD_ne_zero h0) p)
      case sym =>
        subst hc
        obtain ⟨sym, x, hmk, h0, -⟩ := decodeCoded_ok hd
        rw [Inf.run_of_coded (mkSym_coded hmk)]
        refine (Inf.element_literalLength hphase (pos_of_getD_ne_zero h0) p).imp_right ?_
        rintro ⟨n, len, hn, hfit, he⟩
        exact ⟨n, len, rfl, hn, hfit, he⟩
      all_goals
        subst hc
        simp only [decode, orEnd_eq_ok_iff, Option.bind_eq_bind, Option.bind_eq_some_iff, Prod.exists, Option.some.injEq,
          Prod.mk.injEq] at hd
        refine .inl ?_
      case zhdr => obtain ⟨cmf, _, _, flg, _, _, rfl, _⟩ := hd; exact Inf.element_zhdr hphase _ _
      case blkhdr => obtain ⟨v, _, _, rfl, _⟩ := hd; exact Inf.element_mkBlock hphase p v
      case stored => obtain ⟨len, _, _, nlen, _, _, rfl, _⟩ := hd; exact Inf.element_stored hphase _ _
      case dynhdr => obtain ⟨hlit, _, _, hdist, _, _, hclen, _, _, rfl, _⟩ := hd; exact Inf.element_dynhdr hphase _ _ _
      case dynclen => obtain ⟨lens, _, hlens, rfl, _⟩ := hd; exact Inf.element_clens hphase (length_of_takeLens hlens)
      case trailer => obtain ⟨t, _, _, rfl, _⟩ := hd; exact Inf.element_ztrailer hphase t
    · rw [Inf.fetchFault_of_whole _ hm]
      exact .inl (.fault (Reject.code_kind_mem _))

/-- With a match half done, a fetch copies the match, or faults at the first bit of the match. -/
theorem Inf.fetch_of_half {u : Inf} (hm : u.matchLen.isSome) (p : Policy) :
    (∃ code ∈ infFaultCodes, u.fetch p = u.stoppedAt code u.elemStart) ∨
    ∃ n dist, u.bitpos + n ≤ 8 * u.inLen ∧
      u.fetch p = { u.copyMatch (u.matchLen.getD 0) dist with bitpos := u.bitpos + n, matchLen := none } := by
  have hctx : u.ctx = some (.dist u.dLen) := if_pos hm
  unfold Inf.fetch
  rw [hctx]
  dsimp only
  split
  · rename_i i rest hd
    obtain ⟨t, k, x, hi⟩ := coded_of_decode_dist hd
    obtain ⟨hfit, -⟩ := Inf.decode_dist_ok hd hi
    rw [Inf.run_of_coded hi, Inf.runCoded]
    dsimp only
    split
    · by_cases hdist : u.outCount < distBase t + x
      · exact .inl ⟨16, by decide, Inf.distanceHalf_of_lt hfit hdist⟩
      · exact .inr ⟨_, _, hfit, Inf.distanceHalf_of_le hfit (Nat.not_lt.1 hdist)⟩
    · exact .inl ⟨16, by decide, Inf.take_of_le _ _ u hfit⟩
  · rename_i r hd
    exact .inl ⟨_, Reject.code_kind_mem r, if_pos hm⟩

/-- Appending code lengths leaves everything but the lengths and their count alone. -/
theorem Inf.Appended.regs {u v : Inf} (h : u.Appended v) :
    v = { u with lidx := v.lidx, llLen := v.llLen, dLen := v.dLen } := by
  cases h with
  | lens w hr => exact (Inf.appendLens_regs _ w u).2.2.2
  | zeros hr => rfl

/-- No element leaves a match half done. -/
theorem Inf.Element.matchLen_eq_none {u v : Inf} (hm : u.matchLen = none) (h : u.Element v) : v.matchLen = none := by
  cases h with
  | stored => rw [Inf.blockEnd_matchLen, (Inf.copyStored_regs ..).2.2]; exact hm
  | append hphase hlidx hn hfit hv hmore => rw [hv.regs]; exact hm
  | complete hphase hlidx hn hfit hv htables => rw [hv.regs]; exact hm
  | copied =>
    show (Inf.copyMatch ..).matchLen = none
    rw [(Inf.copyMatch_regs ..).2]
    exact hm
  | fault => rfl
  | _ => exact hm

/-- A match copied with the cursor after its two halves is one element of their bits. -/
theorem Inf.copyMatch_halfMatched {u : Inf} (hm : u.matchLen = none) (n k len dist : Nat) :
    { (u.halfMatched n len).copyMatch len dist with bitpos := u.bitpos + n + k, matchLen := none } =
      (u.copyMatch len dist).consumed (n + k) := by
  have hregs := (Inf.copyMatch_regs len dist u).2
  have hb : (u.copyMatch len dist).bitpos = u.bitpos := by rw [hregs]
  have hl : (u.copyMatch len dist).matchLen = none := by rw [hregs, hm]
  calc { (u.halfMatched n len).copyMatch len dist with bitpos := u.bitpos + n + k, matchLen := none }
      = { u.copyMatch len dist with elemStart := u.bitpos, bitpos := u.bitpos + n + k, matchLen := none } :=
        congrArg (fun v : Inf => { v with bitpos := u.bitpos + n + k, matchLen := none })
          (Inf.copyMatch_cursor len dist u.bitpos (u.bitpos + n) (some len) u)
    _ = (u.copyMatch len dist).consumed (n + k) := by rw [Inf.consumed, hb, ← Nat.add_assoc, ← hl]

/-- The distance half of a match makes one element of the two halves. -/
theorem Inf.element_halfMatched {u : Inf} (hm : u.matchLen = none) (hphase : u.phase = .sym) {n len : Nat} (hn : 0 < n)
    (p : Policy) : u.Element ((u.halfMatched n len).fetch p) := by
  obtain ⟨code, hcode, he⟩ | ⟨k, dist, hfit, he⟩ := Inf.fetch_of_half (u := u.halfMatched n len) rfl p
  · rw [he]
    exact .fault hcode
  · rw [he.trans (Inf.copyMatch_halfMatched hm n k len dist)]
    replace hfit : u.bitpos + n + k ≤ 8 * u.inLen := hfit
    exact .copied hphase (Nat.add_pos_left hn k) (by omega) len dist

/-- What a turn makes of INF when no match is half done. -/
theorem Inf.element_turn {u : Inf} (hm : u.matchLen = none) (p : Policy) : u.Element (u.turn p) := by
  unfold Inf.turn
  obtain h | ⟨n, len, hphase, hn, -, he⟩ := Inf.fetch_of_whole hm p
  · rw [h.matchLen_eq_none hm]
    exact h
  · rw [he]
    exact Inf.element_halfMatched hm hphase hn p

end Sys2Proof.Machine

/-! PROOFS. What one step can make of each unit. -/

namespace Sys2Proof.Machine

open Sys2Proof

/-! ### What the host can make of a unit (10_state.md R40, R44, 70_reset_and_hazards.md R310, R321) -/

/-- What the host makes of INF: nothing, or, while the unit is not busy, a write of its lengths or of `IN`, or a start, or a
reset. -/
inductive Inf.Hosted (u : Inf) : Inf → Prop
  | same : Hosted u u
  | configured (hbusy : u.flags.busy = false) (inLen expectLen : Nat) :
      Hosted u { u with inLen := inLen, expectLen := expectLen }
  | filled (hbusy : u.flags.busy = false) (a : Nat) (b : Byte) :
      Hosted u { u with input := Memory.write none u.input a b }
  | started (hbusy : u.flags.busy = false) (hfault : u.flags.fault = false) : Hosted u u.start
  | reset : Hosted u (Inf.reset (u.epoch + 1))

/-- What the host makes of CRC. -/
inductive Crc.Hosted (u : Crc) : Crc → Prop
  | same : Hosted u u
  | init : Hosted u u.init
  | byte (b : Byte) : Hosted u (u.byte b)
  | check (e : Word) : Hosted u (u.check e)
  | reset : Hosted u Crc.reset

/-- What the host makes of DEF, `out` being INF's output that a handoff takes (20_memory.md R79). -/
inductive Dfl.Hosted (out : Memory) (u : Dfl) : Dfl → Prop
  | same : Hosted out u u
  | configured (hbusy : u.flags.busy = false) (inLen : Nat) (bpp npass : BitVec 4) {rowBytes rows : List Nat}
      (hrowBytes : rowBytes.length = u.rowBytes.length) (hrows : rows.length = u.rows.length) :
      Hosted out u { u with inLen := inLen, bpp := bpp, npass := npass, rowBytes := rowBytes, rows := rows }
  | filled (hbusy : u.flags.busy = false) (a : Nat) (b : Byte) :
      Hosted out u { u with din := Memory.write none u.din a b }
  | handedOver (hbusy : u.flags.busy = false) (n : Nat) :
      Hosted out u { u with din := out.filter fun c => c.1 < n, inLen := n }
  | started (hbusy : u.flags.busy = false) (hfault : u.flags.fault = false) : Hosted out u u.start
  | reset : Hosted out u (Dfl.reset (u.epoch + 1))

theorem Inf.hosted_writeConfig (n v : Nat) (u : Inf) : u.Hosted (u.writeConfig n v) := by
  unfold Inf.writeConfig
  split
  · exact .same
  · have hbusy : u.flags.busy = false := Bool.not_eq_true _ ▸ ‹_›
    split
    · exact .configured hbusy v u.expectLen
    · exact .configured hbusy u.inLen v
    · exact .same

theorem Dfl.hosted_writeConfig (out : Memory) (n v : Nat) (u : Dfl) : u.Hosted out (u.writeConfig n v) := by
  unfold Dfl.writeConfig
  split
  · exact .same
  · have hbusy : u.flags.busy = false := Bool.not_eq_true _ ▸ ‹_›
    split
    · exact .configured hbusy v u.bpp u.npass rfl rfl
    · exact .configured hbusy u.inLen _ u.npass rfl rfl
    · exact .configured hbusy u.inLen u.bpp _ rfl rfl
    · split
      · split
        · exact .configured hbusy u.inLen u.bpp u.npass (List.length_set ..) rfl
        · exact .configured hbusy u.inLen u.bpp u.npass rfl (List.length_set ..)
      · exact .same

/-- What a register write makes of the machine: it changes the unit it is made to, and no other (R20). -/
inductive State.Written (s : State) : UnitId → State → Prop
  | inf {v : Inf} (hv : s.inf.Hosted v) : Written s .inf { s with inf := v }
  | crc {v : Crc} (hv : s.crc.Hosted v) : Written s .crc { s with crc := v }
  | dfl {v : Dfl} (hv : s.dfl.Hosted s.inf.out v) : Written s .dfl { s with dfl := v }

/-- What a host action makes of the machine: it changes one unit, or resets all, or changes none. -/
inductive State.Hosted (s : State) : State → Prop
  | units {t : State} (hinf : t.inf = s.inf) (hcrc : t.crc = s.crc) (hdfl : t.dfl = s.dfl) : Hosted s t
  | unit {u : UnitId} {t : State} (h : s.Written u t) : Hosted s t
  | powerOn : Hosted s (hostPowerOn s)

theorem written_of_infStart {s t : State} (he : exec .infStart s = .next t) : s.Written .inf t := by
  obtain ⟨hb, hf, -, hex⟩ | ⟨-, hex⟩ := execInfStart_cases s <;> cases hex.symm.trans he
  · exact .inf (.started hb hf)
  · exact .inf .same

theorem written_of_defStart {s t : State} (he : exec .defStart s = .next t) : s.Written .dfl t := by
  obtain ⟨hb, hf, -, hex⟩ | ⟨-, hex⟩ := execDefStart_cases s <;> cases hex.symm.trans he
  · exact .dfl (.started hb hf)
  · exact .dfl .same

/-- A command changes the unit it is written to. -/
theorem written_of_mkCommand {u : UnitId} {n v : Nat} {i : Instr} {s t : State} (hi : mkCommand u n v = some i)
    (he : exec i s = .next t) : s.Written u t := by
  unfold mkCommand at hi
  split at hi
  · split at hi
    · cases hi; cases he; exact .inf .reset
    · split at hi <;> cases hi
      exact written_of_infStart he
  · split at hi
    · cases hi; cases he; exact .dfl .reset
    · split at hi <;> cases hi
      exact written_of_defStart he
  · split at hi
    · cases hi; cases he; exact .crc .reset
    · split at hi <;> cases hi
      cases he
      exact .crc .init
  · cases hi; cases he; exact .crc (.byte _)
  · cases hi; cases he; exact .crc (.check _)
  · cases hi

/-- What a register write can do. -/
theorem written_of_hostWrite {u : UnitId} {n v : Nat} {s t : State} (he : hostWrite u n v s = .next t) : s.Written u t := by
  rw [hostWrite_eq] at he
  split at he
  · exact written_of_mkCommand ‹_› he
  · cases he
    cases u with
    | inf => exact .inf (Inf.hosted_writeConfig n v s.inf)
    | crc => exact .crc .same
    | dfl => exact .dfl (Dfl.hosted_writeConfig s.inf.out n v s.dfl)

/-- What a host action can do. -/
theorem hosted_of_hostTurn {op : HostOp} {s t : State} (he : hostTurn op s = .next t) : s.Hosted t := by
  cases op with
  | write u n v => exact .unit (written_of_hostWrite he)
  | read u n => cases he; exact .units rfl rfl rfl
  | fillIn a b =>
    simp only [hostTurn, hostFillIn] at he
    split at he <;> cases he
    exact .unit (.inf (.filled (Bool.not_eq_true _ ▸ ‹_›) a b))
  | fillDin a b =>
    simp only [hostTurn, hostFillDin] at he
    split at he <;> cases he
    exact .unit (.dfl (.filled (Bool.not_eq_true _ ▸ ‹_›) a b))
  | takeOut a =>
    simp only [hostTurn, hostTakeOut] at he
    repeat' split at he
    all_goals cases he
    all_goals exact .units rfl rfl rfl
  | takeRaw a =>
    simp only [hostTurn, hostTakeRaw] at he
    repeat' split at he
    all_goals cases he
    all_goals exact .units rfl rfl rfl
  | handoff =>
    simp only [hostTurn, hostHandoff] at he
    split at he
    · cases he
    · rename_i hbusy
      split at he <;> cases he
      exact .unit (.dfl (.handedOver (Bool.or_eq_false_iff.1 (Bool.not_eq_true _ ▸ hbusy)).2 _))
  | powerOn => cases he; exact .powerOn

/-! ### What a step can make of a unit -/

/-- A step makes of INF what a turn of it does, or what the host does. -/
theorem inf_of_step {s t : State} (h : step s = .next t) :
    t.inf = s.inf.turn s.params.incomplete ∨ s.inf.Hosted t.inf := by
  obtain ⟨a, k, rfl | hinf | hdfl | ⟨op, hop⟩⟩ := step_cases h
  · exact .inr .same
  · rw [eq_turn_of_infTurn hinf]; exact .inl rfl
  · rw [eq_turn_of_dflTurn hdfl]; exact .inr .same
  · refine .inr ?_
    cases hosted_of_hostTurn hop with
    | units hinf => rw [hinf]; exact .same
    | unit hw => cases hw with
      | inf hv => exact hv
      | crc | dfl => exact .same
    | powerOn => exact .reset

/-- A step makes of CRC what the host does. -/
theorem crc_of_step {s t : State} (h : step s = .next t) : s.crc.Hosted t.crc := by
  obtain ⟨a, k, rfl | hinf | hdfl | ⟨op, hop⟩⟩ := step_cases h
  · exact .same
  · rw [eq_turn_of_infTurn hinf]; exact .same
  · rw [eq_turn_of_dflTurn hdfl]; exact .same
  · cases hosted_of_hostTurn hop with
    | units hinf hcrc => rw [hcrc]; exact .same
    | unit hw => cases hw with
      | crc hv => exact hv
      | inf | dfl => exact .same
    | powerOn => exact .reset

/-- A step makes of DEF what a turn of it does, or what the host does. -/
theorem dfl_of_step {s t : State} (h : step s = .next t) : t.dfl = s.dfl.turn ∨ s.dfl.Hosted s.inf.out t.dfl := by
  obtain ⟨a, k, rfl | hinf | hdfl | ⟨op, hop⟩⟩ := step_cases h
  · exact .inr .same
  · rw [eq_turn_of_infTurn hinf]; exact .inr .same
  · rw [eq_turn_of_dflTurn hdfl]; exact .inl rfl
  · refine .inr ?_
    cases hosted_of_hostTurn hop with
    | units hinf hcrc hdfl => rw [hdfl]; exact .same
    | unit hw => cases hw with
      | dfl hv => exact hv
      | inf | crc => exact .same
    | powerOn => exact .reset

end Sys2Proof.Machine

/-! PROOFS. Every step keeps INF's control state legal; O44. -/

namespace Sys2Proof.Machine

open Sys2Proof

/-! ### Where an element leads (10_state.md R22, R25) -/

/-- INF has run one element and goes on: it is in a running phase after the header, with its cursor within `IN`. The cursor
stands still only in table completion on its own, and for no code-length-code lengths. -/
structure Inf.GoesOn (u v : Inf) : Prop where
  running : v.phase.running = true
  past_header : v.phase ≠ .zhdr
  flags : v.flags = u.flags
  err : v.err = u.err
  inLen : v.inLen = u.inLen
  matchLen : v.matchLen = u.matchLen
  elemStart : v.elemStart = u.bitpos
  bitpos_ge : u.bitpos ≤ v.bitpos
  bitpos_le : v.bitpos ≤ 8 * u.inLen
  stands : v.bitpos = u.bitpos → (u.phase = .dynclen ∧ u.ncode = 0) ∨ (u.phase = .dynlens ∧ u.lidx = u.nlen + u.ndist)

/-- After an element INF has had no step, or is in `FAULT`, or is done, or goes on. -/
inductive Inf.Led (u : Inf) : Inf → Prop
  | quiet (hphase : u.phase.running = false) : Led u u
  | fault {code : BitVec 8} (hcode : code ∈ infFaultCodes) : Led u (u.stopped code)
  | done {n : Nat} (hphase : u.phase.running = true) (hn : 0 < n) (hfit : u.bitpos + n ≤ 8 * u.inLen) :
      Led u { u.consumed n with phase := .done, flags := .ended }
  | goesOn {v : Inf} (hphase : u.phase.running = true) (h : u.GoesOn v) : Led u v

/-- An element that consumed `n` bits and wrote neither flags nor error. -/
theorem Inf.goesOn_of_consumed {u v : Inf} {n : Nat} (hn : 0 < n) (hfit : u.bitpos + n ≤ 8 * u.inLen)
    (hrun : v.phase.running = true) (hpast : v.phase ≠ .zhdr)
    (hregs : v = { u.consumed n with
      phase := v.phase, bfinal := v.bfinal, btype := v.btype, nlen := v.nlen, ndist := v.ndist, ncode := v.ncode
      lidx := v.lidx, clLen := v.clLen, llLen := v.llLen, dLen := v.dLen, outCount := v.outCount, s1 := v.s1, s2 := v.s2
      out := v.out, win := v.win }) : u.GoesOn v := by
  have hb : v.bitpos = u.bitpos + n := by rw [hregs]; rfl
  refine ⟨hrun, hpast, ?_, ?_, ?_, ?_, ?_, by omega, by omega, by omega⟩ <;> rw [hregs] <;> rfl

/-- The end of a block goes on to a block header or the trailer. -/
theorem Inf.blockEnd_running (u : Inf) : u.blockEnd.phase.running = true ∧ u.blockEnd.phase ≠ .zhdr := by
  rw [Inf.blockEnd]
  split <;> exact ⟨rfl, nofun⟩

/-- Where each element leads. -/
theorem Inf.Element.led {u v : Inf} (h : u.Element v) (hb : u.phase.running = true → u.bitpos ≤ 8 * u.inLen) : u.Led v := by
  cases h with
  | quiet hphase => exact .quiet hphase
  | fault hcode => exact .fault hcode
  | trailer hphase hn hfit => exact .done (by rw [hphase]; rfl) hn hfit
  | zhdr hphase hfit =>
    exact .goesOn (by rw [hphase]; rfl) (Inf.goesOn_of_consumed (by omega) hfit rfl nofun rfl)
  | blockHeader hphase hfit bfinal btype hnext =>
    refine .goesOn (by rw [hphase]; rfl) ?_
    obtain rfl | rfl := hnext <;> exact Inf.goesOn_of_consumed (by omega) hfit rfl nofun rfl
  | fixed hphase hfit =>
    exact .goesOn (by rw [hphase]; rfl) (Inf.goesOn_of_consumed (by omega) hfit rfl nofun rfl)
  | @stored n len hphase hn hfit =>
    obtain ⟨hrun, hpast⟩ := Inf.blockEnd_running ((u.consumed n).copyStored len)
    obtain ⟨-, hpos, hregs⟩ := Inf.copyStored_regs len (u.consumed n)
    replace hpos : ((u.consumed n).copyStored len).bitpos = u.bitpos + (n + 8 * len) := by
      rw [hpos, ← Nat.add_assoc]; rfl
    refine .goesOn (by rw [hphase]; rfl) (Inf.goesOn_of_consumed (n := n + 8 * len) (by omega) (by omega) hrun hpast ?_)
    rw [Inf.blockEnd, hregs, hpos]
    rfl
  | dynhdr hphase hfit =>
    exact .goesOn (by rw [hphase]; rfl) (Inf.goesOn_of_consumed (by omega) hfit rfl nofun rfl)
  | clens hphase hlens hfit =>
    refine .goesOn (by rw [hphase]; rfl) ⟨rfl, nofun, rfl, rfl, rfl, rfl, rfl, Nat.le_add_right _ _, hfit, fun hstands => ?_⟩
    replace hstands : u.bitpos + 3 * _ = u.bitpos := hstands
    exact .inl ⟨hphase, by omega⟩
  | append hphase hlidx hn hfit hv =>
    have hphase' : v.phase = .dynlens := by rw [hv.regs]; exact hphase
    refine .goesOn (by rw [hphase]; rfl) (Inf.goesOn_of_consumed hn hfit (by rw [hphase']; rfl) (by rw [hphase']; nofun) ?_)
    rw [hv.regs]
  | complete hphase hlidx hn hfit hv =>
    refine .goesOn (by rw [hphase]; rfl) (Inf.goesOn_of_consumed hn hfit rfl nofun ?_)
    rw [hv.regs]
  | tables hphase hlidx =>
    have hrun : u.phase.running = true := by rw [hphase]; rfl
    exact .goesOn hrun ⟨rfl, nofun, rfl, rfl, rfl, rfl, rfl, Nat.le_refl _, hb hrun, fun _ => .inr ⟨hphase, hlidx⟩⟩
  | literal hphase hn hfit =>
    exact .goesOn (by rw [hphase]; rfl)
      (Inf.goesOn_of_consumed hn hfit (by show u.phase.running = true; rw [hphase]; rfl)
        (by show u.phase ≠ .zhdr; rw [hphase]; nofun) rfl)
  | @endOfBlock n hphase hn hfit =>
    obtain ⟨hrun, hpast⟩ := Inf.blockEnd_running (u.consumed n)
    exact .goesOn (by rw [hphase]; rfl) (Inf.goesOn_of_consumed hn hfit hrun hpast rfl)
  | copied hphase hn hfit len dist =>
    rw [(Inf.copyMatch_regs len dist u).2]
    exact .goesOn (by rw [hphase]; rfl)
      (Inf.goesOn_of_consumed hn hfit (by show u.phase.running = true; rw [hphase]; rfl)
        (by show u.phase ≠ .zhdr; rw [hphase]; nofun) rfl)

/-! ### The control state (R22, R25, R26, R46, 60_exceptions.md R280) -/

theorem ne_zero_of_mem_infFaultCodes {code : BitVec 8} (h : code ∈ infFaultCodes) : code ≠ 0 := by
  revert code
  decide

theorem Phase.ne_of_running {q : Phase} (h : q.running = true) : q ≠ .done ∧ q ≠ .fault := by
  constructor <;> rintro rfl <;> cases h

/-- A unit that is running has no error. -/
theorem Inf.err_of_running {u : Inf} (h : u.flagsInv) (hrun : u.phase.running = true) : u.err = 0 := by
  obtain ⟨-, -, -, -, herr⟩ := h
  exact herr.2 (Phase.ne_of_running hrun).2

/-- The flags of a unit that is running, and its clear error code. -/
theorem Inf.flagsInv_of_running {u : Inf} (hrun : u.phase.running = true) (hflags : u.flags = .started) (herr : u.err = 0) :
    u.flagsInv := by
  obtain ⟨hdone, hfault⟩ := Phase.ne_of_running hrun
  rw [Inf.flagsInv, hflags, herr]
  exact ⟨hrun.symm, (decide_eq_false hdone).symm, (decide_eq_false hfault).symm, (decide_eq_false hdone).symm, fun _ => hfault,
    fun _ => rfl⟩

theorem Inf.flags_of_running {u : Inf} (h : u.flagsInv) (hrun : u.phase.running = true) : u.flags = .started := by
  obtain ⟨hdone, hfault⟩ := Phase.ne_of_running hrun
  obtain ⟨h1, h2, h3, h4, -⟩ := h
  rw [hrun] at h1
  rw [decide_eq_false hdone] at h2 h4
  rw [decide_eq_false hfault] at h3
  show (⟨u.flags.busy, u.flags.done, u.flags.fault, u.flags.outValid⟩ : Flags) = _
  rw [h1, h2, h3, h4]
  rfl

theorem Inf.stopped_controlInv {u : Inf} {code : BitVec 8} (hcode : code ∈ infFaultCodes) : (u.stopped code).controlInv :=
  ⟨⟨rfl, rfl, rfl, rfl, fun h0 => absurd h0 (ne_zero_of_mem_infFaultCodes hcode), fun hne => absurd rfl hne⟩,
    nofun, Nat.le_refl _, fun _ => ⟨rfl, rfl⟩, nofun, rfl⟩

/-- Wherever an element leads, the control state is legal. -/
theorem Inf.Led.controlInv {u v : Inf} (h : u.Led v) (hinv : u.controlInv) : v.controlInv := by
  have ⟨hflags, hpos, hstart, hfaulted, hzhdr, hm⟩ := hinv
  cases h with
  | quiet hphase => exact hinv
  | fault hcode => exact Inf.stopped_controlInv hcode
  | done hphase hn hfit =>
    exact ⟨⟨rfl, rfl, rfl, rfl, fun _ => nofun, fun _ => Inf.err_of_running (u := u) hflags hphase⟩, nofun, Nat.le_add_right _ _, nofun,
      nofun, hm⟩
  | goesOn hphase h =>
    have hnofault : v.phase ≠ .fault := (Phase.ne_of_running h.running).2
    exact ⟨Inf.flagsInv_of_running h.running (h.flags.trans (Inf.flags_of_running hflags hphase))
        (h.err.trans (Inf.err_of_running hflags hphase)),
      fun _ => h.inLen ▸ h.bitpos_le, h.elemStart ▸ h.bitpos_ge, fun hf => absurd hf hnofault,
      fun hz => absurd hz h.past_header, h.matchLen.trans hm⟩

theorem Inf.reset_controlInv (epoch : Nat) : (Inf.reset epoch).controlInv :=
  ⟨⟨rfl, rfl, rfl, rfl, fun _ => nofun, fun _ => rfl⟩, nofun, Nat.le_refl _, nofun, nofun, rfl⟩

/-- The host keeps the control state legal. -/
theorem Inf.Hosted.controlInv {u v : Inf} (h : u.Hosted v) (hinv : u.controlInv) : v.controlInv := by
  have ⟨⟨hbusy, _, hfault, _, herr⟩, _, hcursor⟩ := hinv
  cases h with
  | same => exact hinv
  | configured hb inLen expectLen =>
    have hidle : u.phase.running = false := hbusy ▸ hb
    exact ⟨hinv.1, fun hrun => absurd hrun (by rw [hidle]; nofun), hcursor⟩
  | filled hb a b => exact hinv
  | started hb hf =>
    have hnofault : u.phase ≠ .fault := of_decide_eq_false (hfault ▸ hf)
    exact ⟨⟨rfl, rfl, rfl, rfl, fun _ => nofun, fun _ => herr.2 hnofault⟩, fun _ => Nat.zero_le _, Nat.le_refl _, nofun,
      fun _ => rfl, rfl⟩
  | reset => exact Inf.reset_controlInv _

/-- Settles O44: a turn runs one element (`Inf.element_turn`), and wherever that leads (`Inf.Element.led`) the control state is
legal; what else a step makes of INF is the host's (`inf_of_step`). -/
theorem controlStateStaysLegal : Obligations.ControlStateStaysLegal := by
  unfold Obligations.ControlStateStaysLegal
  intro s t hinv hs
  have ⟨_, hpos, _, _, _, hm⟩ := hinv
  obtain he | hh := inf_of_step hs
  · rw [he]
    exact ((Inf.element_turn hm _).led hpos).controlInv hinv
  · exact hh.controlInv hinv

end Sys2Proof.Machine

/-! PROOFS. Every step keeps INF's code tables legal; O45. -/

namespace Sys2Proof.Machine

open Sys2Proof

/-! ### The code-length code put in place (41_blocks_and_tables.md R157) -/

/-- The lengths put in place are those that were there, or are 3 bits wide. -/
theorem toNat_le_of_mem_putLens {ps : List (Nat × BitVec 3)} {cl : List CodeLen} (h : ∀ l ∈ cl, l.toNat ≤ 7) :
    ∀ l ∈ putLens ps cl, l.toNat ≤ 7 := by
  induction ps generalizing cl with
  | nil => exact h
  | cons p ps ih =>
    refine ih fun l hl => ?_
    obtain hold | rfl := List.mem_or_eq_of_mem_set hl
    · exact h l hold
    · have := p.2.isLt
      rw [BitVec.toNat_setWidth]
      omega

/-! ### Elements that leave the tables alone -/

/-- The length arrays and the counts of `v` are those of `u`. -/
def Inf.sameTables (u v : Inf) : Prop :=
  v.nlen = u.nlen ∧ v.ndist = u.ndist ∧ v.ncode = u.ncode ∧ v.lidx = u.lidx ∧ v.clLen = u.clLen ∧ v.llLen = u.llLen ∧
  v.dLen = u.dLen

/-- The tables stay legal where they are left alone and no phase is entered that needs them. -/
theorem Inf.tablesInv_of_sameTables {u v : Inf} (h : u.tablesInv) (hsame : u.sameTables v) (hclen : v.phase ≠ .dynclen)
    (hlens : v.phase ≠ .dynlens) (hsym : v.phase = .sym → u.phase = .sym) : v.tablesInv := by
  obtain ⟨hnlen, hndist, hncode, hlidx, hcl, hll, hd⟩ := hsame
  obtain ⟨⟨h1, h2, h3, h4, -, -, -⟩, h5, h6, h7, h8, -, -, h9⟩ := h
  rw [Inf.tablesInv, Inf.countsInv, Inf.arraysInv, hnlen, hndist, hncode, hlidx, hcl, hll, hd]
  exact ⟨⟨h1, h2, h3, h4, fun hp => absurd hp (not_or.2 ⟨hclen, hlens⟩), fun hp => absurd hp hclen, fun hp => absurd hp hlens⟩,
    h5, h6, h7, h8, fun hp => absurd hp (not_or.2 ⟨hclen, hlens⟩), fun hp => absurd hp hlens, fun hp => h9 (hsym hp)⟩

/-- So do they through the elements of `SYM`. -/
theorem Inf.tablesInv_of_sym {u v : Inf} (h : u.tablesInv) (hsame : u.sameTables v) (hu : u.phase = .sym)
    (hv : v.phase = .sym) : v.tablesInv :=
  Inf.tablesInv_of_sameTables h hsame (by rw [hv]; nofun) (by rw [hv]; nofun) fun _ => hu

theorem Inf.blockEnd_phase_cases (u : Inf) : u.blockEnd.phase = .trailer ∨ u.blockEnd.phase = .blkhdr := by
  rw [Inf.blockEnd]
  split
  · exact .inl rfl
  · exact .inr rfl

/-- So do they at the end of a block. -/
theorem Inf.blockEnd_tablesInv {u v : Inf} (h : u.tablesInv) (hsame : u.sameTables v) : v.blockEnd.tablesInv := by
  obtain hp | hp := v.blockEnd_phase_cases <;>
    exact Inf.tablesInv_of_sameTables h hsame (by rw [hp]; nofun) (by rw [hp]; nofun) (by rw [hp]; nofun)

/-! ### Elements that write the tables -/

/-- What is known of the tables while the code lengths are read, whether or not the last one was (R158). -/
structure Inf.Reading (u : Inf) : Prop where
  counts : 257 ≤ u.nlen ∧ u.nlen ≤ maxLCodes ∧ 1 ≤ u.ndist ∧ u.ndist ≤ maxDCodes ∧ 4 ≤ u.ncode ∧ u.ncode ≤ 19
  lidx : u.lidx ≤ u.nlen + u.ndist
  cl : u.clLen.length = 19 ∧ (∀ l ∈ u.clLen, l.toNat ≤ 7) ∧ classify u.clLen = .complete
  sizes : u.llLen.length = 288 ∧ u.dLen.length = 32
  unread_ll : ∀ k < 288, (u.nlen ≤ k ∨ u.lidx ≤ k) → u.llLen.getD k 0 = 0
  unread_d : ∀ k < 32, u.lidx ≤ u.nlen + k → u.dLen.getD k 0 = 0

theorem Inf.reading_of_tablesInv {u : Inf} (h : u.tablesInv) (hphase : u.phase = .dynlens) : u.Reading := by
  obtain ⟨⟨h1, h2, h3, h4, hcounts, -, -⟩, hcl, hll, hd, hmax, hunread, hcomplete, -⟩ := h
  obtain ⟨h5, h6, h7⟩ := hcounts (.inr hphase)
  obtain ⟨hull, hud⟩ := hunread (.inr hphase)
  exact ⟨⟨h5, h1, h6, h2, h7, h3⟩, h4, ⟨hcl, hmax, hcomplete hphase⟩, ⟨hll, hd⟩, hull, hud⟩

/-- Appending code lengths writes entries that were not read yet, and goes on from the next one. -/
theorem Inf.Appended.reading {u v : Inf} (h : u.Appended v) (hr : u.Reading) (hlidx : u.lidx ≠ u.nlen + u.ndist) :
    v.Reading := by
  obtain ⟨hcounts, hle, hcl, ⟨hsll, hsd⟩, hull, hud⟩ := hr
  cases h with
  | @lens r w hfit =>
    obtain ⟨hl, hll, hd, hregs⟩ := Inf.appendLens_regs r w u
    obtain ⟨gll, gd⟩ := Inf.appendLens_getD r w u
    have hnlen : (u.appendLens r w).nlen = u.nlen := by rw [hregs]
    have hndist : (u.appendLens r w).ndist = u.ndist := by rw [hregs]
    have hncode : (u.appendLens r w).ncode = u.ncode := by rw [hregs]
    have hclLen : (u.appendLens r w).clLen = u.clLen := by rw [hregs]
    refine ⟨by rwa [hnlen, hndist, hncode], by rw [hl, hnlen, hndist]; omega, by rwa [hclLen], ⟨hll.trans hsll, hd.trans hsd⟩,
      fun k hk hu => ?_, fun k hk hu => ?_⟩
    · rw [hnlen, hl] at hu
      rw [gll k (hsll ▸ hk), if_neg (by omega)]
      exact hull k hk (by omega)
    · rw [hnlen, hl] at hu
      rw [gd k (hsd ▸ hk), if_neg (by omega)]
      exact hud k hk (by omega)
  | @zeros r hfit =>
    refine ⟨hcounts, hfit, hcl, ⟨hsll, hsd⟩, fun k hk hu => hull k hk ?_, fun k hk hu => hud k hk ?_⟩
    · replace hu : u.nlen ≤ k ∨ u.lidx + r ≤ k := hu
      omega
    · replace hu : u.lidx + r ≤ u.nlen + k := hu
      omega

/-- While lengths are left to read the tables are legal. -/
theorem Inf.Reading.tablesInv {u : Inf} (h : u.Reading) (hphase : u.phase = .dynlens) (hmore : u.lidx ≠ u.nlen + u.ndist) :
    u.tablesInv := by
  obtain ⟨⟨h1, h2, h3, h4, h5, h6⟩, hle, ⟨hcl, hmax, hcomplete⟩, ⟨hsll, hsd⟩, hull, hud⟩ := h
  rw [Inf.tablesInv, Inf.countsInv, Inf.arraysInv, hphase]
  exact ⟨⟨h2, h4, h6, hle, fun _ => ⟨h1, h3, h5⟩, nofun, fun _ => Nat.lt_of_le_of_ne hle hmore⟩, hcl, hsll, hsd, hmax,
    fun _ => ⟨hull, hud⟩, fun _ => hcomplete, nofun⟩

/-- When table completion accepts them they are those of `SYM` (R164). -/
theorem Inf.Reading.tablesInv_sym {u : Inf} (h : u.Reading) (htables : u.tablesComplete) :
    Inf.tablesInv { u with phase := .sym } := by
  obtain ⟨⟨h1, h2, h3, h4, h5, h6⟩, hle, ⟨hcl, hmax, hcomplete⟩, ⟨hsll, hsd⟩, hull, hud⟩ := h
  exact ⟨⟨h2, h4, h6, hle, nofun, nofun, nofun⟩, hcl, hsll, hsd, hmax, nofun, nofun, fun _ => htables⟩

/-- A dynamic block's header announces counts in range and clears the arrays (R156). -/
theorem Inf.tablesInv_of_counts {u : Inf} {nlen ndist ncode : Nat} (hnlen : 257 ≤ nlen ∧ nlen ≤ maxLCodes)
    (hndist : 1 ≤ ndist ∧ ndist ≤ maxDCodes) (hncode : 4 ≤ ncode ∧ ncode ≤ 19) :
    Inf.tablesInv { u with
      nlen := nlen, ndist := ndist, ncode := ncode, llLen := List.replicate 288 0, dLen := List.replicate 32 0
      clLen := List.replicate 19 0, lidx := 0, phase := .dynclen } := by
  have hzero : ∀ l ∈ List.replicate 19 (0 : CodeLen), l = 0 := fun l hl => List.eq_of_mem_replicate hl
  have hget : ∀ n k, (List.replicate n (0 : CodeLen)).getD k 0 = 0 := fun n k => by
    rw [getD_replicate]; split <;> rfl
  exact ⟨⟨hnlen.2, hndist.2, hncode.2, Nat.zero_le _, fun _ => ⟨hnlen.1, hndist.1, hncode.1⟩, fun _ => ⟨rfl, hzero⟩, nofun⟩,
    List.length_replicate, List.length_replicate, List.length_replicate, fun l hl => by rw [hzero l hl]; exact Nat.zero_le _,
    fun _ => ⟨fun k _ _ => hget 288 k, fun k _ _ => hget 32 k⟩, nofun, nofun⟩

/-- Putting the code-length code in place begins the reading of code lengths (R157). -/
theorem Inf.reading_of_placeLens {u : Inf} (h : u.tablesInv) (hphase : u.phase = .dynclen) {lens : List (BitVec 3)}
    (hcomplete : classify (placeLens u.clLen lens) = .complete) :
    Inf.Reading { u with clLen := placeLens u.clLen lens } ∧ u.lidx ≠ u.nlen + u.ndist := by
  obtain ⟨⟨h1, h2, h3, h4, hcounts, hfirst, -⟩, hcl, hll, hd, hmax, hunread, -⟩ := h
  obtain ⟨h5, h6, h7⟩ := hcounts (.inl hphase)
  obtain ⟨hull, hud⟩ := hunread (.inl hphase)
  have h0 := (hfirst hphase).1
  refine ⟨⟨⟨h5, h1, h6, h2, h7, h3⟩, h4, ⟨?_, ?_, hcomplete⟩, ⟨hll, hd⟩, hull, hud⟩, by omega⟩
  · dsimp only
    rw [placeLens_eq_putLens, length_putLens, hcl]
  · dsimp only
    rw [placeLens_eq_putLens]
    exact toNat_le_of_mem_putLens hmax

/-- The fixed codes are complete, and the end of block has a code (R105). -/
theorem fixed_tablesComplete :
    classify fixedLlLen = .complete ∧ fixedLlLen.getD 256 0 ≠ 0 ∧ classify fixedDLen ≠ .overSubscribed :=
  ⟨classify_fixedLlLen, by rw [fixedLlLen_getD (by decide)]; decide, by rw [classify_fixedDLen]; nofun⟩

/-- Every element keeps the tables legal. -/
theorem Inf.Element.tablesInv {u v : Inf} (h : u.Element v) (hinv : u.tablesInv) : v.tablesInv := by
  cases h with
  | quiet => exact hinv
  | fault | zhdr | trailer =>
    exact Inf.tablesInv_of_sameTables hinv ⟨rfl, rfl, rfl, rfl, rfl, rfl, rfl⟩ nofun nofun nofun
  | blockHeader hphase hfit bfinal btype hnext =>
    obtain rfl | rfl := hnext <;>
      exact Inf.tablesInv_of_sameTables hinv ⟨rfl, rfl, rfl, rfl, rfl, rfl, rfl⟩ nofun nofun nofun
  | fixed =>
    obtain ⟨⟨h1, h2, h3, h4, -, -, -⟩, hcl, -, -, hmax, -⟩ := hinv
    exact ⟨⟨h1, h2, h3, h4, nofun, nofun, nofun⟩, hcl, length_fixedLlLen, List.length_replicate, hmax, nofun, nofun,
      fun _ => fixed_tablesComplete⟩
  | @stored n len =>
    refine Inf.blockEnd_tablesInv hinv ?_
    rw [(Inf.copyStored_regs len (u.consumed n)).2.2]
    exact ⟨rfl, rfl, rfl, rfl, rfl, rfl, rfl⟩
  | dynhdr hphase hfit hnlen hndist hncode => exact Inf.tablesInv_of_counts (u := u.consumed 14) hnlen hndist hncode
  | @clens lens hphase hlens hfit hcomplete =>
    obtain ⟨hreading, hmore⟩ := Inf.reading_of_placeLens hinv hphase hcomplete
    have hreading' : Inf.Reading { u.consumed (3 * lens.length) with clLen := placeLens u.clLen lens, phase := .dynlens } :=
      ⟨hreading.counts, hreading.lidx, hreading.cl, hreading.sizes, hreading.unread_ll, hreading.unread_d⟩
    exact hreading'.tablesInv rfl hmore
  | @append n v hphase hlidx hn hfit hv hmore =>
    have hreading := hv.reading (Inf.reading_of_tablesInv (u := u.consumed n) hinv hphase) hlidx
    exact hreading.tablesInv (by rw [hv.regs]; exact hphase) hmore
  | @complete n v hphase hlidx hn hfit hv htables =>
    have hreading := hv.reading (Inf.reading_of_tablesInv (u := u.consumed n) hinv hphase) hlidx
    exact hreading.tablesInv_sym htables
  | tables hphase hlidx htables =>
    exact (Inf.reading_of_tablesInv (u := u.consumed 0) hinv hphase).tablesInv_sym htables
  | literal hphase => exact Inf.tablesInv_of_sym hinv ⟨rfl, rfl, rfl, rfl, rfl, rfl, rfl⟩ hphase hphase
  | @endOfBlock n => exact Inf.blockEnd_tablesInv (v := u.consumed n) hinv ⟨rfl, rfl, rfl, rfl, rfl, rfl, rfl⟩
  | copied hphase hn hfit len dist =>
    rw [(Inf.copyMatch_regs len dist u).2]
    exact Inf.tablesInv_of_sym hinv ⟨rfl, rfl, rfl, rfl, rfl, rfl, rfl⟩ hphase hphase

/-- INF with its arrays cleared and its counts 0, in a phase that needs no tables (R55, R56). -/
theorem Inf.tablesInv_of_cleared {u : Inf} (hcounts : u.nlen = 0 ∧ u.ndist = 0 ∧ u.ncode = 0 ∧ u.lidx = 0)
    (hcl : u.clLen = List.replicate 19 0) (hll : u.llLen = List.replicate 288 0) (hd : u.dLen = List.replicate 32 0)
    (hphase : u.phase = .idle ∨ u.phase = .zhdr) : u.tablesInv := by
  obtain ⟨h1, h2, h3, h4⟩ := hcounts
  rw [Inf.tablesInv, Inf.countsInv, Inf.arraysInv, h1, h2, h3, h4, hcl, hll, hd]
  have hcl7 : ∀ l ∈ List.replicate 19 (0 : CodeLen), l.toNat ≤ 7 := fun l hl => by
    rw [List.eq_of_mem_replicate hl]; exact Nat.zero_le _
  obtain hp | hp := hphase <;> rw [hp] <;>
  exact ⟨⟨Nat.zero_le _, Nat.zero_le _, Nat.zero_le _, Nat.le_refl _, nofun, nofun, nofun⟩, List.length_replicate,
    List.length_replicate, List.length_replicate, hcl7, nofun, nofun, nofun⟩

theorem Inf.reset_tablesInv (epoch : Nat) : (Inf.reset epoch).tablesInv :=
  Inf.tablesInv_of_cleared ⟨rfl, rfl, rfl, rfl⟩ rfl rfl rfl (.inl rfl)

/-- The host keeps the tables legal. -/
theorem Inf.Hosted.tablesInv {u v : Inf} (h : u.Hosted v) (hinv : u.tablesInv) : v.tablesInv := by
  cases h with
  | same | configured | filled => exact hinv
  | started => exact Inf.tablesInv_of_cleared ⟨rfl, rfl, rfl, rfl⟩ rfl rfl rfl (.inr rfl)
  | reset => exact Inf.reset_tablesInv _

/-- Settles O45: a turn runs one element (`Inf.element_turn`), and every element and everything the host does keeps the tables
legal. -/
theorem codeTablesStayLegal : Obligations.CodeTablesStayLegal := by
  unfold Obligations.CodeTablesStayLegal
  intro s t ⟨_, _, _, _, _, hm⟩ hinv hs
  obtain he | hh := inf_of_step hs
  · rw [he]
    exact (Inf.element_turn hm _).tablesInv hinv
  · exact hh.tablesInv hinv

end Sys2Proof.Machine

/-! PROOFS. A turn of INF only appends to its output, and never writes its input or configuration; O46. -/

namespace Sys2Proof.Machine

open Sys2Proof

/-! ### What is output (42_symbols_lz77.md R190) -/

theorem Inf.sameOutput.refl (u : Inf) : u.sameOutput u := ⟨rfl, rfl, rfl, rfl, rfl⟩

theorem Inf.sameOutput.trans {u v w : Inf} (h : u.sameOutput v) (h' : v.sameOutput w) : u.sameOutput w := by
  obtain ⟨h1, h2, h3, h4, h5⟩ := h
  obtain ⟨h1', h2', h3', h4', h5'⟩ := h'
  exact ⟨h1'.trans h1, h2'.trans h2, h3'.trans h3, h4'.trans h4, h5'.trans h5⟩

/-- The output of `v`, its window and its checksum are those of `u` after some bytes were emitted. -/
inductive Inf.Outputs (u : Inf) : Inf → Prop
  | same {v : Inf} (h : u.sameOutput v) : Outputs u v
  | byte {v w : Inf} (h : Outputs u v) (b : Byte) (hw : (v.emit b).sameOutput w) : Outputs u w

theorem Inf.Outputs.emit {u v : Inf} (h : u.Outputs v) (b : Byte) : u.Outputs (v.emit b) := .byte h b (.refl _)

theorem Inf.Outputs.congr {u v w : Inf} (h : u.Outputs v) (hw : v.sameOutput w) : u.Outputs w := by
  cases h with
  | same h => exact .same (h.trans hw)
  | byte h b hv => exact .byte h b (hv.trans hw)

theorem Inf.Outputs.trans {u v w : Inf} (h : u.Outputs v) (h' : v.Outputs w) : u.Outputs w := by
  induction h' with
  | same hw => exact h.congr hw
  | byte _ b hw ih => exact .byte ih b hw

theorem Inf.Outputs.copyStored {u v : Inf} (h : u.Outputs v) (n : Nat) : u.Outputs (v.copyStored n) := by
  induction n generalizing v with
  | zero => exact h
  | succ n ih => exact ih ((h.emit _).congr ⟨rfl, rfl, rfl, rfl, rfl⟩)

theorem Inf.Outputs.copyMatch {u v : Inf} (h : u.Outputs v) (n dist : Nat) : u.Outputs (v.copyMatch n dist) := by
  induction n generalizing v with
  | zero => exact h
  | succ n ih => exact ih (h.emit _)

/-! ### What an element outputs, and that it leaves the input alone -/

/-- The input and the configuration of `v` are those of `u`. -/
def Inf.sameInput (u v : Inf) : Prop := v.input = u.input ∧ v.inLen = u.inLen ∧ v.expectLen = u.expectLen

theorem Inf.sameInput.trans {u v w : Inf} (h : u.sameInput v) (h' : v.sameInput w) : u.sameInput w := by
  obtain ⟨h1, h2, h3⟩ := h
  obtain ⟨h1', h2', h3'⟩ := h'
  exact ⟨h1'.trans h1, h2'.trans h2, h3'.trans h3⟩

theorem Inf.consumed_outputs (u : Inf) (n : Nat) : u.Outputs (u.consumed n) := .same ⟨rfl, rfl, rfl, rfl, rfl⟩

/-- An element emits bytes, or leaves the output alone; it leaves the input and the configuration alone (20_memory.md R73). -/
theorem Inf.Element.outputs {u v : Inf} (h : u.Element v) : u.Outputs v ∧ u.sameInput v := by
  have hsame {w : Inf} (hw : u.sameOutput w) : u.Outputs w := .same hw
  cases h with
  | @stored n len =>
    have hout : u.Outputs ((u.consumed n).copyStored len) :=
      (u.consumed_outputs n).copyStored len
    refine ⟨hout.congr ⟨rfl, rfl, rfl, rfl, rfl⟩, ?_⟩
    rw [Inf.blockEnd, (Inf.copyStored_regs len (u.consumed n)).2.2]
    exact ⟨rfl, rfl, rfl⟩
  | literal => exact ⟨(u.consumed_outputs _).emit _, rfl, rfl, rfl⟩
  | copied hphase hn hfit len dist =>
    refine ⟨((hsame (.refl u)).copyMatch len dist).congr ⟨rfl, rfl, rfl, rfl, rfl⟩, ?_⟩
    rw [(Inf.copyMatch_regs len dist u).2]
    exact ⟨rfl, rfl, rfl⟩
  | append hphase hlidx hn hfit hv hmore =>
    rw [hv.regs]
    exact ⟨hsame ⟨rfl, rfl, rfl, rfl, rfl⟩, rfl, rfl, rfl⟩
  | complete hphase hlidx hn hfit hv htables =>
    rw [hv.regs]
    exact ⟨hsame ⟨rfl, rfl, rfl, rfl, rfl⟩, rfl, rfl, rfl⟩
  | _ => exact ⟨hsame ⟨rfl, rfl, rfl, rfl, rfl⟩, rfl, rfl, rfl⟩

/-- So does a fetch, whether or not a match is half done. -/
theorem Inf.fetch_outputs (u : Inf) (p : Policy) : u.Outputs (u.fetch p) ∧ u.sameInput (u.fetch p) := by
  cases hm : u.matchLen with
  | none =>
    obtain h | ⟨n, len, -, -, -, he⟩ := Inf.fetch_of_whole hm p
    · exact h.outputs
    · rw [he]
      exact ⟨.same ⟨rfl, rfl, rfl, rfl, rfl⟩, rfl, rfl, rfl⟩
  | some len =>
    obtain ⟨code, -, he⟩ | ⟨n, dist, -, he⟩ := Inf.fetch_of_half (u := u) (by rw [hm]; rfl) p <;> rw [he]
    · exact ⟨.same ⟨rfl, rfl, rfl, rfl, rfl⟩, rfl, rfl, rfl⟩
    · refine ⟨(Inf.Outputs.copyMatch (.same (.refl u)) _ dist).congr ⟨rfl, rfl, rfl, rfl, rfl⟩, ?_⟩
      rw [(Inf.copyMatch_regs ..).2]
      exact ⟨rfl, rfl, rfl⟩

/-- And so does a turn. -/
theorem Inf.turn_outputs (u : Inf) (p : Policy) : u.Outputs (u.turn p) ∧ u.sameInput (u.turn p) := by
  obtain ⟨hout, hin⟩ := u.fetch_outputs p
  unfold Inf.turn
  split
  · obtain ⟨hout', hin'⟩ := (u.fetch p).fetch_outputs p
    exact ⟨hout.trans hout', hin.trans hin'⟩
  · exact ⟨hout, hin⟩

/-! ### The window and the memories (10_state.md R50, R51) -/

/-- That the window is a view of the output is a fact about the output. -/
theorem Inf.windowInv_outputInvariant : Inf.OutputInvariant fun u => u.windowInv where
  congr := by
    rintro u v h ⟨hc, ho, hw, -⟩
    rwa [Inf.windowInv, hc, ho, hw]
  empty := by
    rintro u ⟨hc, -⟩ j hj
    rw [hc] at hj
    exact absurd hj (Nat.not_lt_zero j)
  emit := fun b h => Inf.emit_windowInv b _ h

/-- A cell after a write is the one written, or was there. -/
theorem Memory.mem_write {dflt : Option Byte} {m : Memory} {a : Nat} {b : Byte} {c : Host.Cell}
    (h : c ∈ Memory.write dflt m a b) : c = (a, b) ∨ c ∈ m := by
  induction m with
  | nil =>
    unfold Memory.write at h
    split at h
    · cases h
    · exact .inl (List.mem_singleton.1 h)
  | cons d rest ih =>
    obtain ⟨x, y⟩ := d
    unfold Memory.write at h
    split at h
    · split at h
      · exact .inr h
      · exact List.mem_cons.1 h
    · split at h
      · split at h
        · exact .inr (List.mem_cons_of_mem _ h)
        · exact (List.mem_cons.1 h).imp_right (List.mem_cons_of_mem _)
      · obtain rfl | h := List.mem_cons.1 h
        · exact .inr List.mem_cons_self
        · exact (ih h).imp_right (List.mem_cons_of_mem _)

/-- The output memories are in canonical form, and `WIN` is within WSIZE. -/
def Inf.outMemoryInv (u : Inf) : Prop := Memory.wf none u.out ∧ Memory.wf none u.win ∧ ∀ c ∈ u.win, c.1 < wsize

theorem Inf.outMemoryInv.congr {u v : Inf} (h : u.outMemoryInv) (hv : u.sameOutput v) : v.outMemoryInv := by
  obtain ⟨-, ho, hw, -⟩ := hv
  rwa [Inf.outMemoryInv, ho, hw]

theorem Inf.outMemoryInv.emit {u : Inf} (h : u.outMemoryInv) (b : Byte) : (u.emit b).outMemoryInv := by
  obtain ⟨hout, hwin, hbound⟩ := h
  refine ⟨Memory.write_wf none u.out _ b hout, Memory.write_wf none u.win _ b hwin, fun c hc => ?_⟩
  obtain rfl | hold := Memory.mem_write hc
  · exact Nat.mod_lt _ (by decide)
  · exact hbound c hold

theorem Inf.Outputs.outMemoryInv {u v : Inf} (h : u.Outputs v) (hinv : u.outMemoryInv) : v.outMemoryInv := by
  induction h with
  | same hv => exact hinv.congr hv
  | byte _ b hw ih => exact (ih.emit b).congr hw

theorem Inf.reset_memoryInv (epoch : Nat) : (Inf.reset epoch).memoryInv := ⟨rfl, rfl, rfl, nofun⟩

/-- The host keeps the memories in canonical form. -/
theorem Inf.Hosted.memoryInv {u v : Inf} (h : u.Hosted v) (hinv : u.memoryInv) : v.memoryInv := by
  have ⟨hin, hout⟩ := hinv
  cases h with
  | same | configured | started => exact hinv
  | filled hb a b => exact ⟨Memory.write_wf none u.input a b hin, hout⟩
  | reset => exact Inf.reset_memoryInv _

/-- Settles O46: the window is a fact about the output (`Inf.windowInv_outputInvariant`), and a turn only emits bytes
(`Inf.turn_outputs`), each of which keeps the memories in canonical form. -/
theorem windowIsAViewOfTheOutput : Obligations.WindowIsAViewOfTheOutput := by
  unfold Obligations.WindowIsAViewOfTheOutput
  intro s t hwin hmem hs
  refine ⟨Inf.windowInv_outputInvariant.step hwin hs, ?_⟩
  obtain he | hh := inf_of_step hs
  · obtain ⟨hin, hout⟩ := hmem
    obtain ⟨houts, hsame, -⟩ := s.inf.turn_outputs s.params.incomplete
    rw [he]
    exact ⟨by rwa [hsame], houts.outMemoryInv hout⟩
  · exact hh.memoryInv hmem

/-! ### Appending to the output (R65, R69) -/

/-- Emitting bytes writes `OUT` from `out_count` on, and only below the new `out_count`. -/
theorem Inf.Outputs.appends {u v : Inf} (h : u.Outputs v) :
    u.outCount ≤ v.outCount ∧
    ∀ j, j < u.outCount ∨ v.outCount ≤ j → Memory.find v.out j = Memory.find u.out j := by
  induction h with
  | same hv =>
    obtain ⟨hc, ho, -⟩ := hv
    exact ⟨Nat.le_of_eq hc.symm, fun j _ => by rw [ho]⟩
  | @byte v w _ b hw ih =>
    obtain ⟨hle, hfind⟩ := ih
    obtain ⟨hc, ho, -⟩ := hw
    rw [Inf.emit_outCount] at hc
    refine ⟨by omega, fun j hj => ?_⟩
    rw [ho, Inf.emit_find_out, if_neg (by omega)]
    exact hfind j (by omega)

/-- With legal tables a turn of a running unit moves the cursor forward, or faults with the cursor where it was. -/
theorem Inf.turn_advances {u : Inf} (hc : u.controlInv) (ht : u.tablesInv) (hrun : u.phase.running = true) (p : Policy) :
    (u.turn p).phase = .fault ∧ (u.turn p).bitpos = u.bitpos ∨
    (u.turn p).phase ≠ .fault ∧ u.bitpos < (u.turn p).bitpos ∧ (u.turn p).bitpos ≤ 8 * u.inLen := by
  obtain ⟨-, hpos, -, -, -, hm⟩ := hc
  have hled := (Inf.element_turn hm p).led hpos
  generalize u.turn p = v at hled
  cases hled with
  | quiet hquiet => rw [hquiet] at hrun; cases hrun
  | fault => exact .inl ⟨rfl, rfl⟩
  | done _ hn hfit => exact .inr ⟨nofun, Nat.lt_add_of_pos_right hn, hfit⟩
  | goesOn _ h =>
    refine .inr ⟨(Phase.ne_of_running h.running).2, Nat.lt_of_le_of_ne h.bitpos_ge fun hstands => ?_, h.bitpos_le⟩
    obtain ⟨⟨-, -, -, -, hcounts, -, hmore⟩, -⟩ := ht
    obtain ⟨hphase, h0⟩ | ⟨hphase, hlast⟩ := h.stands hstands.symm
    · have := hcounts (.inl hphase)
      omega
    · have := hmore hphase
      omega

/-- Settles O54: a turn only emits bytes (`Inf.Outputs.appends`), and moves the cursor (`Inf.turn_advances`). -/
theorem outputIsOnlyAppended : Obligations.OutputIsOnlyAppended := by
  unfold Obligations.OutputIsOnlyAppended
  intro s hc ht hrun
  obtain ⟨hle, hfind⟩ := (s.inf.turn_outputs s.params.incomplete).1.appends
  exact ⟨_, infTurn_eq s, hle, hfind, (Inf.turn_advances hc ht hrun _).imp_right And.right⟩

/-! ### The bits that are left bound the run (10_state.md R25, 70_reset_and_hazards.md R331) -/

/-- A turn of a running unit ends the run, or leaves it running on fewer bits of the same input. -/
theorem Inf.turn_ends_or_bits_lt {u : Inf} (hc : u.controlInv) (ht : u.tablesInv) (hrun : u.phase.running = true)
    (p : Policy) :
    ((u.turn p).phase = .done ∨ (u.turn p).phase = .fault) ∨
    (u.turn p).phase.running = true ∧ u.bitpos < (u.turn p).bitpos ∧ (u.turn p).bitpos ≤ 8 * u.inLen := by
  obtain ⟨hfault, -⟩ | ⟨-, hlt, hle⟩ := Inf.turn_advances hc ht hrun p
  · exact .inl (.inr hfault)
  · have ⟨_, hpos, _, _, _, hm⟩ := hc
    have hled := (Inf.element_turn hm p).led hpos
    generalize u.turn p = v at hled hlt hle
    cases hled with
    | quiet => exact absurd hlt (Nat.lt_irrefl _)
    | fault => exact absurd hlt (Nat.lt_irrefl _)
    | done => exact .inl (.inl rfl)
    | goesOn _ h => exact .inr ⟨h.running, hlt, hle⟩

/-- From a legal state on, INF ends after at most one turn for each bit left and one more. -/
theorem exists_infTurns_of_bits_le {m : Nat} {s : State} (hc : s.inf.controlInv) (ht : s.inf.tablesInv)
    (hrun : s.inf.phase.running = true) (hm : 8 * s.inf.inLen ≤ s.inf.bitpos + m) :
    ∃ n r, n ≤ m + 1 ∧ infTurns n s = some r ∧ (r.inf.phase = .done ∨ r.inf.phase = .fault) := by
  induction m generalizing s with
  | zero =>
    obtain hends | ⟨-, hlt, hle⟩ := Inf.turn_ends_or_bits_lt hc ht hrun s.params.incomplete
    · exact ⟨1, _, Nat.le_refl _, by rw [infTurns, infTurn_eq]; rfl, hends⟩
    · omega
  | succ m ih =>
    obtain hends | ⟨hrun', hlt, hle⟩ := Inf.turn_ends_or_bits_lt hc ht hrun s.params.incomplete
    · exact ⟨1, _, by omega, by rw [infTurns, infTurn_eq]; rfl, hends⟩
    · have ⟨_, hpos, _, _, _, hnone⟩ := hc
      have helem := Inf.element_turn hnone s.params.incomplete
      have hsame : (s.inf.turn s.params.incomplete).inLen = s.inf.inLen := (s.inf.turn_outputs _).2.2.1
      obtain ⟨n, r, hn, hturns, hends⟩ := ih (s := s.onInf (Inf.turn s.params.incomplete))
        ((helem.led hpos).controlInv hc) (helem.tablesInv ht) hrun' (by rw [State.onInf_inf, hsame]; omega)
      exact ⟨n + 1, r, by omega, by rw [infTurns, infTurn_eq]; exact hturns, hends⟩

/-- Settles O56: every turn of a running unit ends the run or leaves fewer bits (`Inf.turn_ends_or_bits_lt`). -/
theorem everyInfRunEnds : Obligations.EveryInfRunEnds := by
  unfold Obligations.EveryInfRunEnds
  intro s hc ht hrun
  exact exists_infTurns_of_bits_le hc ht hrun (Nat.le_add_left _ _)

end Sys2Proof.Machine

/-! PROOFS. Every step keeps CRC and DEF legal, and the units share no state; O48, O49, O53. -/

namespace Sys2Proof.Machine

open Sys2Proof

/-! ### CRC (10_state.md R27, R42) -/

theorem Crc.init_inv {u : Crc} (h : u.inv) : u.init.inv := by
  have ⟨_, _, hfault, herr, _⟩ := h
  unfold Crc.init
  split
  · exact h
  · rename_i hstate
    rw [decide_eq_false hstate] at hfault
    rw [if_neg hstate] at herr
    exact ⟨rfl, rfl, hfault, herr, nofun, Nat.zero_mod _⟩

/-- A byte goes to its place of `tag`, below the bytes fed before it (R222). -/
theorem Crc.tag_byte {w : Word} {cnt : Nat} (h : w.toNat % 2 ^ (8 * (4 - cnt)) = 0) (b : Byte) :
    (if cnt < 4 then w ||| (b.setWidth 32 <<< (8 * (3 - cnt))) else w).toNat % 2 ^ (8 * (4 - (cnt + 1))) = 0 := by
  split
  · obtain ⟨q, hq⟩ := Nat.dvd_of_mod_eq_zero h
    rw [show 8 * (4 - cnt) = 8 * (3 - cnt) + 8 by omega, Nat.mul_comm] at hq
    rw [show 4 - (cnt + 1) = 3 - cnt by omega, toNat_or_byte_shiftLeft b (by omega) hq, hq, Nat.pow_add, Nat.mul_comm (2 ^ _) (2 ^ 8),
      ← Nat.mul_assoc, ← Nat.add_mul]
    exact Nat.mul_mod_left _ _
  · rw [show 8 * (4 - (cnt + 1)) = 0 by omega]
    exact Nat.mod_one _

theorem Crc.byte_inv {u : Crc} (h : u.inv) (b : Byte) : (u.byte b).inv := by
  have ⟨h1, h2, h3, h4, _, htag⟩ := h
  unfold Crc.byte
  split
  · exact h
  · rename_i hstate
    have hnofault : u.cstate ≠ .fault := by rw [Decidable.not_not.1 hstate]; nofun
    exact ⟨h1, h2, h3, h4, fun hf => absurd hf hnofault, Crc.tag_byte htag b⟩

theorem Crc.check_inv {u : Crc} (h : u.inv) (e : Word) : (u.check e).inv := by
  have ⟨_, _, hfault, herr, _, htag⟩ := h
  unfold Crc.check
  split
  · exact h
  · rename_i hstate
    rw [Decidable.not_not.1 hstate] at hfault herr
    split
    · exact ⟨rfl, rfl, hfault, herr, nofun, htag⟩
    · exact ⟨rfl, rfl, rfl, rfl, fun _ => rfl, htag⟩

theorem Crc.reset_inv : Crc.reset.inv := by decide

/-- The commands keep CRC legal. -/
theorem Crc.Hosted.inv {u v : Crc} (h : u.Hosted v) (hinv : u.inv) : v.inv := by
  cases h with
  | same => exact hinv
  | init => exact Crc.init_inv hinv
  | byte b => exact Crc.byte_inv hinv b
  | check e => exact Crc.check_inv hinv e
  | reset => exact Crc.reset_inv

/-- Settles O48: CRC moves by its commands alone (`crc_of_step`), and each keeps it legal. -/
theorem crcStateStaysLegal : Obligations.CrcStateStaysLegal := by
  unfold Obligations.CrcStateStaysLegal
  exact fun s t hinv hs => (crc_of_step hs).inv hinv

/-! ### DEF (10_state.md R28 to R30, 44_defilter.md R241, R242) -/

/-- A fault of a row or of the end step leaves DEF legal. -/
theorem Dfl.stopped_inv {u : Dfl} (h : u.inv) {code : BitVec 8} (hcode : code ≠ 0) (ft : Option Byte) :
    (u.stopped code ft).inv := by
  obtain ⟨-, ⟨hpass, hopos, -, -⟩, hmem⟩ := h
  exact ⟨⟨rfl, rfl, rfl, rfl, fun h0 => absurd h0 hcode, fun hne => absurd rfl hne⟩, ⟨hpass, hopos, Nat.le_refl _, nofun⟩, hmem⟩

theorem Dfl.finish_inv {u : Dfl} (h : u.inv) (hr : u.dphase = .row) : u.begin.finish.inv := by
  obtain ⟨⟨-, -, -, -, herr⟩, ⟨hpass, hopos, -, -⟩, hmem⟩ := h
  exact ⟨⟨rfl, rfl, rfl, rfl, fun _ => nofun, fun _ => herr.2 (by rw [hr]; nofun)⟩, ⟨hpass, hopos, Nat.le_refl _, nofun⟩, hmem⟩

/-- Where `nextpass` enters a sub-image it is not empty, and its first row is left (R242). -/
theorem Dfl.enterPass_cursorInv {u : Dfl} {p : Nat} (hp : p ≤ u.npass.toNat) (hlegal : u.configLegal = true)
    (hopos : u.opos ≤ u.ipos) (hstart : u.elemStart ≤ u.ipos) (hipos : u.ipos ≤ u.inLen) : (u.enterPass p).cursorInv := by
  obtain ⟨-, hle, hskip, hstop⟩ := u.nextPassFrom_spec (u.npass.toNat - p) p
  rw [← Dfl.nextPass, Nat.add_sub_cancel' hp] at hle hstop
  obtain ⟨-, -, h7⟩ := (Dfl.configLegal_iff u).1 hlegal
  refine ⟨Nat.le_trans hle h7, hopos, hstart, fun _ => ⟨hlegal, hle, hipos, fun hlt => ⟨hstop hlt, ?_⟩, fun _ => rfl⟩⟩
  exact (Dfl.enterPass_atRow hp).2 hlt

/-- After a row DEF is at the next one, or enters the next sub-image (R243). -/
theorem Dfl.nextRow_rowDone_inv {u : Dfl} (h : u.inv) (hr : u.dphase = .row) (hp : u.pass < u.npass.toNat)
    (hfit : u.ipos + 1 + u.rowBytes.getD u.pass 0 ≤ u.inLen) (ft : Byte) {cur : Memory} (hcur : Memory.wf (some 0) cur) :
    ((u.readFilter ft).rowDone cur).nextRow.inv := by
  obtain ⟨hflags, ⟨hpass, hopos, -, hrun⟩, hdin, hraw, -, -, hsizes⟩ := h
  obtain ⟨hlegal, hle, -, hrow, -⟩ := hrun hr
  obtain ⟨hempty, hlt⟩ := hrow hp
  have hmem : ((u.readFilter ft).rowDone cur).memoryInv := ⟨hdin, copyRow_wf _ _ _ _ _ hraw, hcur, hcur, hsizes⟩
  have hopos' : u.opos + u.rowBytes.getD u.pass 0 ≤ u.ipos + 1 + u.rowBytes.getD u.pass 0 := by omega
  have hstart : u.ipos ≤ u.ipos + 1 + u.rowBytes.getD u.pass 0 := by omega
  unfold Dfl.nextRow
  split
  · refine ⟨hflags, Dfl.enterPass_cursorInv hp hlegal hopos' hstart hfit, ?_⟩
    obtain ⟨h1, h2, -, h4⟩ := hmem
    exact ⟨h1, h2, rfl, h4⟩
  · rename_i hmore
    refine ⟨hflags, ⟨hpass, hopos', hstart, fun _ => ⟨hlegal, hle, hfit, fun _ => ⟨hempty, ?_⟩, nofun⟩⟩, hmem⟩
    exact Nat.lt_of_le_of_ne hlt hmore

/-- A turn of DEF keeps it legal. -/
theorem Dfl.turn_inv {u : Dfl} (h : u.inv) : u.turn.inv := by
  by_cases hr : u.dphase = .row
  · have hcur : Memory.wf (some 0) u.cur := (Dfl.rowReady_of_inv h).1
    rw [Dfl.turn, if_neg (not_not_intro hr)]
    split
    · rename_i hp
      split
      · rw [Dfl.rowStep]
        split
        · rw [Dfl.scanline_eq]
          split
          · exact Dfl.stopped_inv h (code := 18) (by decide) (some _)
          · rename_i hfit
            exact Dfl.nextRow_rowDone_inv h hr hp (Nat.not_lt.1 hfit) _ (Dfl.rebuild_wf _ _ _ _ _ hcur)
        · exact Dfl.stopped_inv h (code := 19) (by decide) (some _)
      · exact Dfl.stopped_inv h (code := 18) (by decide) none
    · rw [Dfl.endStep_eq]
      split
      · exact Dfl.stopped_inv h (code := 32) (by decide) none
      · exact Dfl.finish_inv h hr
  · rw [Dfl.turn, if_pos hr]
    exact h

/-- The start of DEF leaves it legal, running or in `FAULT` (R241). -/
theorem Dfl.start_inv {u : Dfl} (h : u.inv) (hfault : u.flags.fault = false) : u.start.inv := by
  obtain ⟨⟨-, -, hf, -, herr⟩, ⟨hpass, hopos, -, -⟩, h1, h2, h3, h4⟩ := h
  have hnofault : u.dphase ≠ .fault := of_decide_eq_false (hf ▸ hfault)
  cases hlegal : u.configLegal with
  | true =>
    have hentered := Dfl.enterPass_cursorInv
      (u := { u with elemStart := 0, ipos := 0, opos := 0, ftype := 0, dphase := .row, flags := .started })
      (Nat.zero_le _) hlegal (Nat.le_refl _) (Nat.le_refl _) (Nat.zero_le _)
    rw [show u.start = _ from if_pos hlegal]
    exact ⟨⟨rfl, rfl, rfl, rfl, fun _ => nofun, fun _ => herr.2 hnofault⟩, hentered, h1, h2, rfl, h4⟩
  | false =>
    rw [Dfl.start_of_illegal u hlegal]
    exact ⟨⟨rfl, rfl, rfl, rfl, nofun, fun hne => absurd rfl hne⟩, ⟨hpass, hopos, Nat.zero_le _, nofun⟩, h1, h2, h3, h4⟩

theorem Dfl.reset_inv (epoch : Nat) : (Dfl.reset epoch).inv :=
  ⟨⟨rfl, rfl, rfl, rfl, fun _ => nofun, fun _ => rfl⟩, ⟨Nat.zero_le _, Nat.le_refl _, Nat.le_refl _, nofun⟩, rfl, rfl, rfl, rfl,
    rfl, rfl⟩

/-- The host keeps DEF legal; what a handoff gives it is INF's output. -/
theorem Dfl.Hosted.inv {out : Memory} {u v : Dfl} (h : u.Hosted out v) (hinv : u.inv) (hout : Memory.wf none out) : v.inv := by
  have ⟨hflags, ⟨hpass, hopos, hstart, _⟩, hdin, hmem⟩ := hinv
  have hidle (hb : u.flags.busy = false) : u.dphase ≠ .row := of_decide_eq_false (hflags.1 ▸ hb)
  cases h with
  | same => exact hinv
  | configured hb inLen bpp npass hrb hrs =>
    obtain ⟨hraw, hprev, hcur, h7, h7'⟩ := hmem
    exact ⟨hflags, ⟨hpass, hopos, hstart, fun hr => absurd hr (hidle hb)⟩, hdin, hraw, hprev, hcur, hrb.trans h7, hrs.trans h7'⟩
  | filled hb a b => exact ⟨hflags, hinv.2.1, Memory.write_wf none u.din a b hdin, hmem⟩
  | handedOver hb n =>
    exact ⟨hflags, ⟨hpass, hopos, hstart, fun hr => absurd hr (hidle hb)⟩, Memory.filter_wfAbove none out 0 _ hout, hmem⟩
  | started hb hf => exact Dfl.start_inv hinv hf
  | reset => exact Dfl.reset_inv _

/-- Settles O49: a step makes of DEF what its turn or the host does (`dfl_of_step`), and both keep it legal. -/
theorem defilterStateStaysLegal : Obligations.DefilterStateStaysLegal := by
  unfold Obligations.DefilterStateStaysLegal
  intro s t hinv hmem hs
  obtain he | hh := dfl_of_step hs
  · rw [he]
    exact Dfl.turn_inv hinv
  · exact hh.inv hinv hmem.2.1

/-! ### The units share no state (R20, 60_exceptions.md R293, 70_reset_and_hazards.md R310) -/

/-- The input and the configuration of `v` are those of `u`. -/
def Dfl.sameInput (u v : Dfl) : Prop :=
  v.din = u.din ∧ v.inLen = u.inLen ∧ v.bpp = u.bpp ∧ v.npass = u.npass ∧ v.rowBytes = u.rowBytes ∧ v.rows = u.rows

theorem Dfl.nextRow_sameInput (u : Dfl) : u.sameInput u.nextRow := by
  unfold Dfl.nextRow
  split <;> exact ⟨rfl, rfl, rfl, rfl, rfl, rfl⟩

/-- A turn of DEF leaves its input and its configuration alone (20_memory.md R77). -/
theorem Dfl.turn_sameInput (u : Dfl) : u.sameInput u.turn := by
  by_cases hr : u.dphase = .row
  · obtain ⟨-, ft, cur, he⟩ | he | ⟨code, -, he⟩ := Dfl.turn_cases hr <;> rw [he]
    · exact ((u.readFilter ft).rowDone cur).nextRow_sameInput
    · exact ⟨rfl, rfl, rfl, rfl, rfl, rfl⟩
    · exact ⟨rfl, rfl, rfl, rfl, rfl, rfl⟩
  · rw [Dfl.turn, if_pos hr]
    exact ⟨rfl, rfl, rfl, rfl, rfl, rfl⟩

/-- DEF's turn answers a next state only where a rule applies. -/
theorem pass_le_of_dflTurn {s t : State} (h : dflTurn s = .next t) (hr : s.dfl.dphase = .row) :
    s.dfl.pass ≤ s.dfl.npass.toNat := by
  refine Nat.not_lt.1 fun hlt => ?_
  simp [dflTurn, hr, hlt] at h

/-- Settles O53: a turn of INF or of DEF is a function of that unit and the parameters (`infTurn_eq`, `dflTurn_eq`), which leaves
the unit's input and configuration alone, and a register write changes the unit it is made to (`written_of_hostWrite`). -/
theorem unitsShareNoState : Obligations.UnitsShareNoState := by
  unfold Obligations.UnitsShareNoState
  refine fun s t => ⟨fun h => ?_, fun h => ?_, fun u n v h => ?_, fun r hi hd => ?_⟩
  · rw [eq_turn_of_infTurn h]
    exact ⟨rfl, (s.inf.turn_outputs _).2⟩
  · rw [eq_turn_of_dflTurn h]
    exact ⟨rfl, s.dfl.turn_sameInput⟩
  · cases written_of_hostWrite h <;> rfl
  · have hpass : s.dfl.dphase = .row → s.dfl.pass ≤ s.dfl.npass.toNat := pass_le_of_dflTurn hd
    rw [eq_turn_of_infTurn hi, eq_turn_of_dflTurn hd]
    exact ⟨_, dflTurn_eq (s := s.onInf _) hpass, infTurn_eq _⟩

end Sys2Proof.Machine

/-! PROOFS. Two INFs that agree still agree after a turn of each; O58. -/

namespace Sys2Proof.Machine

open Sys2Proof

/-! ### Operations on the registers (70_reset_and_hazards.md R312) -/

/-- INF with other fault registers and other buffers. -/
def Inf.withBuffers (err : BitVec 8) (errInfo : Nat) (input out win : Memory) (epoch : Nat) (u : Inf) : Inf :=
  { u with err := err, errInfo := errInfo, input := input, out := out, win := win, epoch := epoch }

/-- An operation that neither reads nor writes the fault registers and the buffers, and keeps the counts that say which of their
bytes matter. -/
structure Inf.RegisterOp (f : Inf → Inf) : Prop where
  buffers : ∀ err errInfo input out win epoch u,
    f (Inf.withBuffers err errInfo input out win epoch u) = Inf.withBuffers err errInfo input out win epoch (f u)
  outCount : ∀ u, (f u).outCount = u.outCount
  inLen : ∀ u, (f u).inLen = u.inLen
  fault : ∀ u, (f u).phase = .fault → u.phase = .fault

theorem Inf.RegisterOp.comp {f g : Inf → Inf} (hf : Inf.RegisterOp f) (hg : Inf.RegisterOp g) :
    Inf.RegisterOp fun u => f (g u) where
  buffers err errInfo input out win epoch u := by rw [hg.buffers, hf.buffers]
  outCount u := by rw [hf.outCount, hg.outCount]
  inLen u := by rw [hf.inLen, hg.inLen]
  fault u h := hg.fault u (hf.fault (g u) h)

/-- Such an operation leaves the fault registers and the buffers alone. -/
theorem Inf.RegisterOp.keeps {f : Inf → Inf} (hf : Inf.RegisterOp f) (u : Inf) :
    f u = Inf.withBuffers u.err u.errInfo u.input u.out u.win u.epoch (f u) :=
  hf.buffers u.err u.errInfo u.input u.out u.win u.epoch u

/-- Two INFs that agree differ in the fault registers and the buffers alone. -/
theorem Inf.agree.exists_buffers {u v : Inf} (h : Inf.agree u v) :
    ∃ err errInfo input out win epoch, v = Inf.withBuffers err errInfo input out win epoch u := ⟨_, _, _, _, _, _, h.1⟩

theorem Inf.agree.elim {u v : Inf} (h : Inf.agree u v) :
    v = Inf.withBuffers v.err v.errInfo v.input v.out v.win v.epoch u := h.1

/-- An operation on the registers keeps two INFs in agreement. -/
theorem Inf.RegisterOp.agree {f : Inf → Inf} (hf : Inf.RegisterOp f) {u v : Inf} (h : Inf.agree u v) :
    Inf.agree (f u) (f v) := by
  have hu := hf.keeps u
  have hv : f v = Inf.withBuffers v.err v.errInfo v.input v.out v.win v.epoch (f u) := by
    rw [← hf.buffers, ← h.elim]
  obtain ⟨-, herr, hin, hout, hwin⟩ := h
  rw [Inf.agree, hv]
  refine ⟨rfl, fun hfault => ?_, fun a ha => ?_, fun j hj => ?_, fun j hj hw => ?_⟩
  · rw [hu]
    exact herr (hf.fault u hfault)
  · rw [hu]
    exact hin a (hf.inLen u ▸ ha)
  · rw [hu]
    exact hout j (hf.outCount u ▸ hj)
  · rw [hu]
    exact hwin j (hf.outCount u ▸ hj) (hf.outCount u ▸ hw)

/-! ### Each part keeps two INFs in agreement -/

/-- Two INFs that take the same branch agree if they do in each. -/
theorem Inf.agree_ite {p : Prop} [Decidable p] {a a' b b' : Inf} (ha : p → Inf.agree a a') (hb : ¬ p → Inf.agree b b') :
    Inf.agree (if p then a else b) (if p then a' else b') := by
  by_cases h : p
  · rw [if_pos h, if_pos h]; exact ha h
  · rw [if_neg h, if_neg h]; exact hb h

theorem Inf.registerOp_advance (n : Nat) : Inf.RegisterOp (Inf.advance n) :=
  ⟨fun _ _ _ _ _ _ _ => rfl, fun _ => rfl, fun _ => rfl, fun _ => id⟩

theorem Inf.registerOp_begin : Inf.RegisterOp Inf.begin :=
  ⟨fun _ _ _ _ _ _ _ => rfl, fun _ => rfl, fun _ => rfl, fun _ => id⟩

theorem Inf.registerOp_blockEnd : Inf.RegisterOp Inf.blockEnd :=
  ⟨fun _ _ _ _ _ _ _ => rfl, fun _ => rfl, fun _ => rfl, fun u h => absurd h (Inf.blockEnd_phase_ne_fault u)⟩

/-- A jump to a phase other than `FAULT`. -/
theorem Inf.registerOp_phase {q : Phase} (hq : q ≠ .fault) : Inf.RegisterOp fun u => { u with phase := q } :=
  ⟨fun _ _ _ _ _ _ _ => rfl, fun _ => rfl, fun _ => rfl, fun _ h => absurd h hq⟩

theorem Inf.registerOp_loadFixed : Inf.RegisterOp Inf.loadFixed :=
  ⟨fun _ _ _ _ _ _ _ => rfl, fun _ => rfl, fun _ => rfl, fun _ h => absurd (show Phase.sym = .fault from h) nofun⟩

theorem Inf.registerOp_setLen (v : CodeLen) :
    Inf.RegisterOp fun u => { u.setLen u.lidx v with lidx := u.lidx + 1 } := by
  have hregs (u : Inf) : u.setLen u.lidx v = _ := Inf.setLen_regs u.lidx v u
  simp only [hregs]
  exact ⟨fun _ _ _ _ _ _ _ => rfl, fun _ => rfl, fun _ => rfl, fun _ => id⟩

theorem Inf.registerOp_appendLens (n : Nat) (v : CodeLen) : Inf.RegisterOp fun u => u.appendLens n v := by
  induction n with
  | zero => exact ⟨fun _ _ _ _ _ _ _ => rfl, fun _ => rfl, fun _ => rfl, fun _ => id⟩
  | succ n ih => exact ih.comp (Inf.registerOp_setLen v)

section Agreement

variable {u v : Inf} (h : Inf.agree u v)

include h

theorem Inf.agree_raise (k : Kind) : Inf.agree (u.raise k) (v.raise k) := by
  obtain ⟨hregs, -, hbytes⟩ := h
  have hs : u.elemStart = v.elemStart := by rw [hregs]
  exact ⟨by rw [hregs]; rfl, fun _ => ⟨rfl, congrArg (· / 8) hs⟩, hbytes⟩

theorem Inf.agree_take {n : Nat} {k k' : Inf → Inf}
    (hk : u.bitpos + n ≤ 8 * u.inLen → Inf.agree (k (u.advance n)) (k' (v.advance n))) :
    Inf.agree (u.take n k) (v.take n k') := by
  obtain ⟨_, _, _, _, _, _, rfl⟩ := h.exists_buffers
  exact Inf.agree_ite hk fun _ => Inf.agree_raise h _

/-- Emitting the same byte. -/
theorem Inf.agree_emit (b : Byte) : Inf.agree (u.emit b) (v.emit b) := by
  have hc : v.outCount = u.outCount := by rw [h.elim]; rfl
  obtain ⟨hregs, herr, hin, hout, hwin⟩ := h
  refine ⟨by rw [hregs]; rfl, herr, hin, fun j hj => ?_, fun j hj hw => ?_⟩
  · rw [Inf.emit_outCount] at hj
    rw [Inf.outByte, Inf.outByte, Inf.emit_find_out, Inf.emit_find_out, hc]
    split
    · rfl
    · exact hout j (by omega)
  · rw [Inf.emit_outCount] at hj hw
    rw [Inf.winByte, Inf.winByte, Inf.emit_find_win, Inf.emit_find_win, hc]
    split
    · rfl
    · rename_i hne
      have hlt : j ≠ u.outCount := fun he => hne (by rw [he])
      exact hwin j (by omega) (by omega)

theorem Inf.agree_copyStored {n : Nat} (hn : u.bitpos / 8 + n ≤ u.inLen) :
    Inf.agree (u.copyStored n) (v.copyStored n) := by
  induction n generalizing u v with
  | zero => exact h
  | succ n ih =>
    have hb : v.inByte (v.bitpos / 8) = u.inByte (u.bitpos / 8) := by
      rw [show v.bitpos = u.bitpos by rw [h.elim]; rfl, h.2.2.1 _ (by omega)]
    unfold Inf.copyStored
    rw [hb]
    refine ih ((Inf.registerOp_advance 8).agree (Inf.agree_emit h _)) ?_
    show (u.bitpos + 8) / 8 + n ≤ u.inLen
    omega

/-- The copy of a match reads the window within its view of the output alone (10_state.md R51). -/
theorem Inf.agree_copyMatch {n dist : Nat} (hpos : 1 ≤ dist) (hw : dist ≤ wsize) (hdist : dist ≤ u.outCount) :
    Inf.agree (u.copyMatch n dist) (v.copyMatch n dist) := by
  induction n generalizing u v with
  | zero => exact h
  | succ n ih =>
    have hb : v.winByte ((v.outCount - dist) % wsize) = u.winByte ((u.outCount - dist) % wsize) := by
      rw [show v.outCount = u.outCount by rw [h.elim]; rfl, h.2.2.2.2 (u.outCount - dist) (by omega) (by omega)]
    unfold Inf.copyMatch
    rw [hb]
    exact ih (Inf.agree_emit h _) (Nat.le_succ_of_le hdist)

end Agreement

/-- Table completion, on units that agree and found by the step as units that agree. -/
theorem Inf.agree_completeTables {u0 v0 u v : Inf} (h0 : Inf.agree u0 v0) (h : Inf.agree u v) (p : Policy) :
    Inf.agree (Inf.completeTables p u0 u) (Inf.completeTables p v0 v) := by
  have hraise := Inf.agree_raise h0 .invalidDeflateStream
  obtain ⟨_, _, _, _, _, _, rfl⟩ := h.exists_buffers
  exact Inf.agree_ite (fun _ => hraise) fun _ => Inf.agree_ite (fun _ => hraise) fun _ =>
    Inf.agree_ite (fun _ => hraise) fun _ => Inf.agree_ite (fun _ => hraise) fun _ =>
    (Inf.registerOp_phase (q := .sym) nofun).agree h

theorem Inf.agree_endLens {u0 v0 u v : Inf} (h0 : Inf.agree u0 v0) (h : Inf.agree u v) (p : Policy) :
    Inf.agree (Inf.endLens p u0 u) (Inf.endLens p v0 v) := by
  obtain ⟨_, _, _, _, _, _, rfl⟩ := h.exists_buffers
  exact Inf.agree_ite (fun _ => Inf.agree_completeTables h0 h p) fun _ => h

/-! ### Each element keeps two INFs in agreement -/

section Elements

variable {u v : Inf} (h : Inf.agree u v)

include h

/-- An element that reads `n` bits first and then does what agreeing INFs may do. -/
theorem Inf.agree_element {n : Nat} {k : Inf → Inf} (hk : ∀ {u v}, Inf.agree u v → Inf.agree (k u) (k v)) :
    Inf.agree (u.begin.take n k) (v.begin.take n k) := by
  have hb := Inf.registerOp_begin.agree h
  exact Inf.agree_take hb fun _ => hk ((Inf.registerOp_advance n).agree hb)

theorem Inf.agree_zhdr (cmf flg : Byte) : Inf.agree (u.zhdr cmf flg) (v.zhdr cmf flg) :=
  Inf.agree_element h fun h =>
    Inf.agree_ite (fun _ => Inf.agree_raise h _) fun _ => Inf.agree_ite (fun _ => Inf.agree_raise h _) fun _ =>
    Inf.agree_ite (fun _ => Inf.agree_raise h _) fun _ => Inf.agree_ite (fun _ => Inf.agree_raise h _) fun _ =>
    (Inf.registerOp_phase (q := .blkhdr) nofun).agree h

theorem Inf.agree_ztrailer (t : Word) : Inf.agree (u.ztrailer t) (v.ztrailer t) := by
  obtain ⟨_, _, _, _, _, _, rfl⟩ := h.exists_buffers
  refine Inf.agree_element h fun {u v} h => ?_
  obtain ⟨_, _, _, _, _, _, rfl⟩ := h.exists_buffers
  exact Inf.agree_ite (fun _ => Inf.agree_raise h _) fun _ => Inf.agree_ite (fun _ => Inf.agree_raise h _) fun _ =>
    Inf.agree_ite (fun _ => Inf.agree_raise h _) fun _ => Inf.agree_ite (fun _ => Inf.agree_raise h _) fun _ =>
    Inf.RegisterOp.agree (f := fun u => { u with phase := .done, flags := .ended })
      ⟨fun _ _ _ _ _ _ _ => rfl, fun _ => rfl, fun _ => rfl, fun _ h => absurd (show Phase.done = .fault from h) nofun⟩ h

theorem Inf.agree_blockHeader (bfinal : Bool) (btype : BitVec 2) {next : Inf → Inf} (hnext : Inf.RegisterOp next) :
    Inf.agree (u.blockHeader bfinal btype next) (v.blockHeader bfinal btype next) :=
  Inf.agree_element h fun h =>
    have hlatch : Inf.RegisterOp fun u => { u with bfinal := bfinal, btype := btype } :=
      ⟨fun _ _ _ _ _ _ _ => rfl, fun _ => rfl, fun _ => rfl, fun _ => id⟩
    hnext.agree (hlatch.agree h)

theorem Inf.agree_stored (len nlen : BitVec 16) : Inf.agree (u.stored len nlen) (v.stored len nlen) := by
  obtain ⟨_, _, _, _, _, _, rfl⟩ := h.exists_buffers
  refine Inf.agree_element h fun {u v} h => ?_
  obtain ⟨_, _, _, _, _, _, rfl⟩ := h.exists_buffers
  exact Inf.agree_ite (fun _ => Inf.agree_raise h _) fun _ => Inf.agree_ite (fun _ => Inf.agree_raise h _) fun hbody =>
    Inf.registerOp_blockEnd.agree (Inf.agree_copyStored h (Nat.not_lt.1 hbody))

theorem Inf.agree_dynhdr (hlit hdist : BitVec 5) (hclen : BitVec 4) :
    Inf.agree (u.dynhdr hlit hdist hclen) (v.dynhdr hlit hdist hclen) :=
  Inf.agree_element h fun h => Inf.agree_ite (fun _ => Inf.agree_raise h _) fun _ =>
    Inf.RegisterOp.agree (f := fun u => { u with
        nlen := litLenCount hlit, ndist := distCount hdist, ncode := codeLenCount hclen, llLen := List.replicate 288 0
        dLen := List.replicate 32 0, clLen := List.replicate 19 0, lidx := 0, phase := .dynclen })
      ⟨fun _ _ _ _ _ _ _ => rfl, fun _ => rfl, fun _ => rfl, fun _ h => absurd (show Phase.dynclen = .fault from h) nofun⟩ h

theorem Inf.agree_clens (lens : List (BitVec 3)) : Inf.agree (u.clens lens) (v.clens lens) := by
  refine Inf.agree_element h fun {u v} h => ?_
  obtain ⟨_, _, _, _, _, _, rfl⟩ := h.exists_buffers
  exact Inf.agree_ite (fun _ => Inf.agree_raise h _) fun _ =>
    Inf.RegisterOp.agree (f := fun u => { u with clLen := placeLens u.clLen lens, phase := .dynlens })
      ⟨fun _ _ _ _ _ _ _ => rfl, fun _ => rfl, fun _ => rfl, fun _ h => absurd (show Phase.dynlens = .fault from h) nofun⟩ h

theorem Inf.agree_clExplicit (sym : Nat) (p : Policy) : Inf.agree (u.clExplicit sym p) (v.clExplicit sym p) := by
  obtain ⟨_, _, _, _, _, _, rfl⟩ := h.exists_buffers
  have hb := Inf.registerOp_begin.agree h
  unfold Inf.clExplicit
  exact Inf.agree_take hb fun _ => Inf.agree_endLens hb
    ((Inf.registerOp_appendLens 1 _).agree ((Inf.registerOp_advance _).agree hb)) p

theorem Inf.agree_clRepeat (x : Nat) (p : Policy) : Inf.agree (u.clRepeat x p) (v.clRepeat x p) := by
  obtain ⟨_, _, _, _, _, _, rfl⟩ := h.exists_buffers
  have hb := Inf.registerOp_begin.agree h
  have hcode := (Inf.registerOp_advance (u.clLen.getD 16 0).toNat).agree hb
  unfold Inf.clRepeat
  exact Inf.agree_take hb fun _ => Inf.agree_ite (fun _ => Inf.agree_raise hcode _) fun _ => Inf.agree_take hcode fun _ =>
    have hbits := (Inf.registerOp_advance (clExtra 16)).agree hcode
    Inf.agree_ite (fun _ => Inf.agree_raise hbits _) fun _ =>
      Inf.agree_endLens hb ((Inf.registerOp_appendLens _ _).agree hbits) p

theorem Inf.agree_clZeros (sym x : Nat) (p : Policy) : Inf.agree (u.clZeros sym x p) (v.clZeros sym x p) := by
  obtain ⟨_, _, _, _, _, _, rfl⟩ := h.exists_buffers
  have hb := Inf.registerOp_begin.agree h
  have hbits := (Inf.registerOp_advance ((u.clLen.getD sym 0).toNat + clExtra sym)).agree hb
  unfold Inf.clZeros
  exact Inf.agree_take hb fun _ => Inf.agree_ite (fun _ => Inf.agree_raise hbits _) fun _ =>
    Inf.agree_endLens hb (Inf.RegisterOp.agree (f := fun u => { u with lidx := u.lidx + (clBase sym + x) })
      ⟨fun _ _ _ _ _ _ _ => rfl, fun _ => rfl, fun _ => rfl, fun _ => id⟩ hbits) p

theorem Inf.agree_lengthHalf (sym x : Nat) : Inf.agree (u.lengthHalf sym x) (v.lengthHalf sym x) := by
  obtain ⟨_, _, _, _, _, _, rfl⟩ := h.exists_buffers
  exact Inf.agree_element h fun h => Inf.RegisterOp.agree (f := fun u => { u with matchLen := some (lenBase sym + x) })
    ⟨fun _ _ _ _ _ _ _ => rfl, fun _ => rfl, fun _ => rfl, fun _ => id⟩ h

theorem Inf.agree_distanceHalf {t x : Nat} (ht : t < 30) (hx : x < 2 ^ distExtra t) :
    Inf.agree (u.distanceHalf t x) (v.distanceHalf t x) := by
  obtain ⟨hpos, hle⟩ := distBase_bounds ht hx
  obtain ⟨_, _, _, _, _, _, rfl⟩ := h.exists_buffers
  have hbits := (Inf.registerOp_advance (u.distBits t)).agree h
  exact Inf.agree_take h fun _ => Inf.agree_ite (fun _ => Inf.agree_raise hbits _) fun hdist =>
    Inf.RegisterOp.agree (f := fun u => { u with matchLen := none })
      ⟨fun _ _ _ _ _ _ _ => rfl, fun _ => rfl, fun _ => rfl, fun _ => id⟩
      (Inf.agree_copyMatch hbits hpos hle (Nat.not_lt.1 hdist))

/-- A Huffman-coded element. -/
theorem Inf.agree_runCoded {c : Coded} (hdist : c.alphabet = .distance → c.x < 2 ^ distExtra c.sym) (p : Policy) :
    Inf.agree (u.runCoded p c) (v.runCoded p c) := by
  obtain ⟨a, sym, k, x⟩ := c
  cases a with
  | codeLength =>
    unfold Inf.runCoded
    dsimp only
    split
    · exact Inf.agree_clExplicit h sym p
    · split
      · exact Inf.agree_clRepeat h x p
      · exact Inf.agree_clZeros h sym x p
  | literalLength =>
    obtain ⟨_, _, _, _, _, _, rfl⟩ := h.exists_buffers
    unfold Inf.runCoded
    dsimp only
    split
    · exact Inf.agree_element h fun h => Inf.agree_emit h _
    · split
      · exact Inf.agree_element h fun h => Inf.registerOp_blockEnd.agree h
      · split
        · exact Inf.agree_lengthHalf h sym x
        · exact Inf.agree_element h fun h => Inf.agree_raise h _
  | distance =>
    unfold Inf.runCoded
    dsimp only
    split
    · exact Inf.agree_distanceHalf h ‹_› (hdist rfl)
    · obtain ⟨_, _, _, _, _, _, rfl⟩ := h.exists_buffers
      exact Inf.agree_take h fun _ => Inf.agree_raise ((Inf.registerOp_advance _).agree h) _

/-- Every instruction. -/
theorem Inf.agree_run (i : Instr) (p : Policy) : Inf.agree (u.run p i) (v.run p i) := by
  cases hc : i.coded with
  | some c =>
    rw [Inf.run_of_coded hc]
    refine Inf.agree_runCoded h (fun ha => ?_) p
    obtain ⟨a, t, k, x⟩ := c
    obtain rfl : a = .distance := ha
    obtain ⟨-, rfl, hx⟩ := mkDist_of_coded hc
    exact hx
  | none =>
    cases i with
    | zhdr cmf flg => exact Inf.agree_zhdr h cmf flg
    | blkStored => exact Inf.agree_blockHeader h _ _ (Inf.registerOp_phase (q := .stored) nofun)
    | blkDyn => exact Inf.agree_blockHeader h _ _ (Inf.registerOp_phase (q := .dynhdr) nofun)
    | blkFixed => exact Inf.agree_blockHeader h _ _ Inf.registerOp_loadFixed
    | blkRsv => exact Inf.agree_element h fun h => Inf.agree_raise h _
    | stored len nlen => exact Inf.agree_stored h len nlen
    | dynhdr hlit hdist hclen => exact Inf.agree_dynhdr h hlit hdist hclen
    | clens lens => exact Inf.agree_clens h lens
    | tables =>
      have hb := Inf.registerOp_begin.agree h
      exact Inf.agree_completeTables hb hb p
    | ztrailer t => exact Inf.agree_ztrailer h t
    | ft0 | ft1 | ft2 | ft3 | ft4 | ftInvalid | defEnd | init | byte | check | infStart | defStart | infReset | crcReset
    | defReset => exact h
    | _ => cases hc

end Elements

/-! ### A turn keeps two INFs in agreement -/

section Turns

variable {u v : Inf} (h : Inf.agree u v)

include h

/-- The stream is read from `IN` below IN_LEN alone (20_memory.md R66). -/
theorem Inf.agree_bitsFrom {k n : Nat} (hfit : n = 0 ∨ k + n ≤ 8 * u.inLen) : v.bitsFrom k n = u.bitsFrom k n := by
  induction n generalizing k with
  | zero => rfl
  | succ n ih =>
    rw [Inf.bitsFrom, Inf.bitsFrom, ih (by omega), Inf.bitAt, Inf.bitAt, h.2.2.1 (k / 8) (by omega)]

theorem Inf.agree_stream : v.stream = u.stream := by
  have hbits : v.bitsFrom u.bitpos (8 * u.inLen - u.bitpos) = u.bitsFrom u.bitpos (8 * u.inLen - u.bitpos) :=
    Inf.agree_bitsFrom h (by omega)
  obtain ⟨_, _, _, _, _, _, rfl⟩ := h.exists_buffers
  exact hbits

theorem Inf.agree_ctx : v.ctx = u.ctx := by
  rw [h.elim]
  rfl

theorem Inf.agree_matchLen : v.matchLen = u.matchLen := by
  rw [h.elim]
  rfl

/-- One fetch of each: they decode the same instruction, and run it on what agrees. -/
theorem Inf.agree_fetch (p : Policy) : Inf.agree (u.fetch p) (v.fetch p) := by
  unfold Inf.fetch
  rw [Inf.agree_ctx h, Inf.agree_stream h]
  split
  · exact h
  · split
    · exact Inf.agree_run h _ p
    · unfold Inf.fetchFault
      rw [Inf.agree_matchLen h]
      exact Inf.agree_ite (fun _ => Inf.agree_raise h _) fun _ => Inf.agree_raise (Inf.registerOp_begin.agree h) _

/-- One turn of each. -/
theorem Inf.agree_turn (p : Policy) : Inf.agree (u.turn p) (v.turn p) := by
  have hf := Inf.agree_fetch h p
  unfold Inf.turn
  rw [Inf.agree_matchLen hf]
  exact Inf.agree_ite (fun _ => Inf.agree_fetch hf p) fun _ => hf

end Turns

/-- Any number of turns of each. -/
theorem Inf.agree_infTurns {n : Nat} {s s' r r' : State} (hp : s.params = s'.params) (h : Inf.agree s.inf s'.inf)
    (hr : infTurns n s = some r) (hr' : infTurns n s' = some r') : Inf.agree r.inf r'.inf := by
  induction n generalizing s s' with
  | zero => cases hr; cases hr'; exact h
  | succ n ih =>
    rw [infTurns, infTurn_eq] at hr hr'
    refine ih (s := s.onInf _) (s' := s'.onInf _) hp ?_ hr hr'
    rw [State.onInf_inf, State.onInf_inf, ← hp]
    exact Inf.agree_turn h _

/-- The start of INF with the same lengths and the same input: every working register is rewritten (R56). -/
theorem Inf.agree_start {u v : Inf} (hl : u.inLen = v.inLen) (he : u.expectLen = v.expectLen)
    (hin : ∀ a < u.inLen, u.inByte a = v.inByte a) : Inf.agree u.start v.start := by
  refine ⟨?_, nofun, hin, fun j hj => absurd hj (Nat.not_lt_zero j), fun j hj => absurd hj (Nat.not_lt_zero j)⟩
  unfold Inf.start
  rw [hl, he]

/-- A START that is not ignored, of a run that fits. -/
theorem exec_infStart_of_fits {s : State} (hbusy : s.inf.flags.busy = false) (hfault : s.inf.flags.fault = false)
    (hfits : s.infFits) : exec .infStart s = .next (s.onInf Inf.start) := by
  obtain ⟨-, -, -, hex⟩ | ⟨hno, -⟩ := execInfStart_cases s
  · exact hex
  · simp [hbusy, hfault, hfits] at hno

/-- Settles O58: START makes the two INFs agree (`Inf.agree_start`), and every turn keeps them so (`Inf.agree_turn`), since an
element reads only bytes of `IN` below IN_LEN and window bytes that are a view of the output. -/
theorem infRunsAreIndependent : Obligations.InfRunsAreIndependent := by
  unfold Obligations.InfRunsAreIndependent
  intro s s' hp
  refine ⟨fun t t' hb hf hb' hf' hl he hin hfits ht ht' n r r' hr hr' => ?_, fun t t' hag _ _ ht ht' => ?_⟩
  · have hfits' : s'.infFits := by
      unfold State.infFits at hfits ⊢
      rwa [← hp, ← hl, ← he]
    obtain rfl := Host.Outcome.next.inj ((exec_infStart_of_fits hb hf hfits).symm.trans ht)
    obtain rfl := Host.Outcome.next.inj ((exec_infStart_of_fits hb' hf' hfits').symm.trans ht')
    exact Inf.agree_infTurns (s := s.onInf Inf.start) (s' := s'.onInf Inf.start) hp (Inf.agree_start hl he hin) hr hr'
  · rw [eq_turn_of_infTurn ht, eq_turn_of_infTurn ht', State.onInf_inf, State.onInf_inf, ← hp]
    exact Inf.agree_turn hag _

end Sys2Proof.Machine

/-! PROOFS. Bit fields, quiescent units, code lengths, commands, resets and register files; O6, O10, O18, O26, O37, O39, O40, O41,
O43. -/

namespace Sys2Proof.Machine

open Sys2Proof

/-! ### A field of the stream (20_memory.md R61, R62, R66) -/

theorem Inf.toNat_bitAt (u : Inf) (k : Nat) : (u.bitAt k).toNat = ((u.inByte (k / 8)).toNat >>> (k % 8)) % 2 := by
  rw [Inf.bitAt, BitVec.getLsbD, Nat.toNat_testBit, Nat.shiftRight_eq_div_pow]

/-- What remains is the bit at the cursor and what remains after it. -/
theorem Inf.stream_eq_cons {u : Inf} (h : u.bitpos < 8 * u.inLen) : u.stream = u.bitAt u.bitpos :: (u.advance 1).stream := by
  rw [Inf.stream, show 8 * u.inLen - u.bitpos = 8 * u.inLen - (u.bitpos + 1) + 1 by omega, Inf.bitsFrom]
  exact congrArg _ (Inf.bitsFrom_congr (u := u) (v := u.advance 1) rfl rfl ..).symm

/-- The number in the `n` bits from the cursor on, least significant first. -/
def Inf.fieldValue (n : Nat) (u : Inf) : Nat :=
  ((List.range n).map fun i => ((u.inByte ((u.bitpos + i) / 8)).toNat >>> ((u.bitpos + i) % 8)) % 2 * 2 ^ i).sum

theorem Inf.fieldValue_succ (n : Nat) (u : Inf) :
    u.fieldValue (n + 1) = (u.bitAt u.bitpos).toNat + 2 * (u.advance 1).fieldValue n := by
  rw [Inf.fieldValue, Inf.fieldValue, List.range_succ_eq_map, List.map_cons, List.sum_cons, List.map_map, ← List.sum_map_mul_left,
    Inf.toNat_bitAt, pow_zero, mul_one]
  refine congrArg (_ + List.sum ·) (List.map_congr_left fun i _ => ?_)
  have hpos : (u.advance 1).bitpos + i = u.bitpos + (i + 1) := by rw [Nat.add_comm i 1, ← Nat.add_assoc]; rfl
  rw [Function.comp_apply, Nat.succ_eq_add_one, hpos, Nat.pow_succ', Nat.mul_left_comm]
  rfl

/-- Reading a field is `getbits` (R62), by induction on its width: its first bit is the one at the cursor, and the others are a
field at the next bit. -/
theorem Inf.takeBits_stream (n : Nat) {u : Inf} (h : u.bitpos ≤ 8 * u.inLen) :
    takeBits n u.stream = if 8 * u.inLen < u.bitpos + n then none else some (u.fieldValue n, (u.advance n).stream) := by
  induction n generalizing u with
  | zero => exact (if_neg (Nat.not_lt.2 h)).symm
  | succ n ih =>
    obtain hlt | hend := Nat.lt_or_ge u.bitpos (8 * u.inLen)
    · have hpos : u.bitpos + 1 + n = u.bitpos + (n + 1) := by omega
      have hadvance : (u.advance 1).advance n = u.advance (n + 1) := congrArg (fun b => { u with bitpos := b }) hpos
      have htail : takeBits n (u.advance 1).stream =
          if 8 * u.inLen < u.bitpos + (n + 1) then none
          else some ((u.advance 1).fieldValue n, (u.advance (n + 1)).stream) := by
        rw [← hpos, ← hadvance]
        exact ih (u := u.advance 1) hlt
      rw [Inf.stream_eq_cons hlt, takeBits, htail, Inf.fieldValue_succ]
      by_cases hshort : 8 * u.inLen < u.bitpos + (n + 1)
      · rw [if_pos hshort, if_pos hshort]
      · rw [if_neg hshort, if_neg hshort]
    · rw [if_pos (by omega), takeBits_eq_none_iff, Inf.length_stream]
      omega

/-- Settles O6: a field read is `getbits` (`Inf.takeBits_stream`). -/
theorem fieldReadIsGetbits : Obligations.FieldReadIsGetbits := by
  unfold Obligations.FieldReadIsGetbits
  exact fun n u h => Inf.takeBits_stream n h

/-! ### Units with no step of their own (10_state.md R22) -/

theorem Inf.ctx_of_quiet {u : Inf} (hphase : u.phase.running = false) (hm : u.matchLen = none) : u.ctx = none := by
  rw [Inf.ctx, hm]
  revert hphase
  cases u.phase <;> simp [Phase.running]

theorem Inf.turn_of_quiet {u : Inf} (hphase : u.phase.running = false) (hm : u.matchLen = none) (p : Policy) : u.turn p = u := by
  have hfetch : u.fetch p = u := by rw [Inf.fetch, Inf.ctx_of_quiet hphase hm]
  rw [Inf.turn, hfetch, hm]
  rfl

/-- Settles O10: in IDLE, DONE and FAULT the decoder has no context (`Inf.ctx_of_quiet`). -/
theorem quiescentUnitsDoNotMove : Obligations.QuiescentUnitsDoNotMove := by
  unfold Obligations.QuiescentUnitsDoNotMove
  refine fun s => ⟨fun hphase hm => ?_, fun hrow => if_pos hrow, rfl⟩
  rw [infTurn_eq, State.onInf, Inf.turn_of_quiet hphase hm]

/-! ### Code lengths (41_blocks_and_tables.md R158 to R161) -/

/-- Settles O18: the element appends its entries (`exec_codeLength_appends`), and while lengths are left the tables are not
completed. -/
theorem codeLengthsAreAppended : Obligations.CodeLengthsAreAppended := by
  unfold Obligations.CodeLengthsAreAppended
  intro i sym k x r p s ll d hi hr hp hb h16 hlt hll hd hll' hd' hlit hdist
  rw [exec_codeLength_appends i sym k x r p s ll d hi hr hp hb h16 (Nat.le_of_lt hlt) hll hd hll' hd' hlit hdist]
  exact congrArg (fun u => Host.Outcome.next { s with inf := u }) (if_neg (Nat.ne_of_lt hlt))

/-! ### Commands (43_crc32.md R221 to R223, 10_state.md R56, 70_reset_and_hazards.md R310) -/

theorem exec_init (s : State) : exec .init s = .next { s with crc := s.crc.init } := rfl

theorem exec_byte (b : Byte) (s : State) : exec (.byte b) s = .next { s with crc := s.crc.byte b } := rfl

theorem exec_check (e : Word) (s : State) : exec (.check e) s = .next { s with crc := s.crc.check e } := rfl

theorem Crc.byte_of_ne {u : Crc} (h : u.cstate ≠ .accum) (b : Byte) : u.byte b = u := if_pos h

theorem Crc.check_of_ne {u : Crc} (h : u.cstate ≠ .accum) (e : Word) : u.check e = u := if_pos h

/-- `CHECK` where it is not ignored. -/
theorem Crc.check_of_accum {u : Crc} (h : u.cstate = .accum) (e : Word) :
    u.check e = if u.reg ^^^ 0xFFFFFFFF = e then { u with cstate := .matched, active := false, matched := true }
      else u.raise .chunkChecksumMismatch :=
  if_neg (not_not_intro h)

/-- Settles O26, by the state each command needs. -/
theorem crcCommands : Obligations.CrcCommands := by
  unfold Obligations.CrcCommands
  intro b e s
  rw [exec_init, exec_byte, exec_check]
  refine ⟨fun h => ?_, fun h => ?_, fun h => ?_, fun h => ?_, fun h he => ?_, fun h he => ?_, fun h => ?_⟩
  · rw [Crc.init, if_neg h]
  · rw [Crc.init, if_pos h]
  · rw [Crc.byte, if_neg (not_not_intro h)]
  · rw [Crc.byte_of_ne h]
  · rw [Crc.check_of_accum h, if_pos he]
  · rw [Crc.check_of_accum h, if_neg he]
    rfl
  · rw [Crc.check_of_ne h]

theorem exec_infStart_of_ignored {s : State} (h : s.inf.flags.busy = true ∨ s.inf.flags.fault = true ∨ ¬ s.infFits) :
    exec .infStart s = .next s := by
  obtain ⟨hbusy, hfault, hfits, -⟩ | ⟨-, hex⟩ := execInfStart_cases s
  · simp [hbusy, hfault, hfits] at h
  · exact hex

theorem exec_defStart_of_busy {s : State} (h : s.dfl.flags.busy = true) : exec .defStart s = .next s := by
  obtain ⟨hbusy, -⟩ | ⟨-, hex⟩ := execDefStart_cases s
  · cases hbusy.symm.trans h
  · exact hex

/-- Settles O37: START runs `Inf.start` where it is not ignored. -/
theorem infStart : Obligations.InfStart := by
  unfold Obligations.InfStart
  refine fun s => ⟨fun hbusy hfault hfits => exec_infStart_of_fits hbusy hfault hfits, fun h => exec_infStart_of_ignored ?_⟩
  exact h.imp_right (Or.imp_right fun ⟨w, hw, hbig⟩ => State.not_infFits hw hbig)

/-- Settles O39: each reset puts its unit at `Inf.reset`, `Crc.reset` or `Dfl.reset`, with nothing listed in its buffers. -/
theorem unitResets : Obligations.UnitResets := by
  unfold Obligations.UnitResets
  intro s
  refine ⟨⟨s.onInf Inf.unitReset, ?_⟩, rfl, ⟨s.onDfl Dfl.unitReset, ?_⟩⟩
  · exact ⟨rfl, rfl, rfl, rfl, rfl, rfl, rfl, rfl, rfl, rfl, rfl, rfl, rfl, rfl, rfl, rfl, rfl, rfl, rfl, rfl, rfl, rfl,
      fun _ => ⟨rfl, rfl, rfl⟩⟩
  · exact ⟨rfl, rfl, rfl, rfl, rfl, rfl, rfl, rfl, rfl, rfl, rfl, rfl, rfl, rfl, rfl, rfl, rfl, fun _ => ⟨rfl, rfl⟩,
      fun _ => ⟨rfl, rfl⟩⟩

/-! ### Which writes are commands, and which change the configuration (10_state.md R40, R44, R45) -/

theorem mkCommand_inf_eq_none {n : Nat} (h : n ≠ 0) (v : Nat) : mkCommand .inf n v = none := by
  cases n with
  | zero => exact absurd rfl h
  | succ n => rfl

theorem mkCommand_dfl_eq_none {n : Nat} (h : n ≠ 0) (v : Nat) : mkCommand .dfl n v = none := by
  cases n with
  | zero => exact absurd rfl h
  | succ n => rfl

theorem mkCommand_crc_eq_none {n : Nat} (h : ¬ (n = 0 ∨ n = 4 ∨ n = 5)) (v : Nat) : mkCommand .crc n v = none := by
  unfold mkCommand
  split <;> simp_all

/-- Bits 0 and 1 of CTRL say which command a write is. -/
theorem mkCommand_ctrl_congr {v w : Nat} (h : v % 4 = w % 4) (u : UnitId) : mkCommand u 0 v = mkCommand u 0 w := by
  have h1 : v / 2 % 2 = w / 2 % 2 := by omega
  have h0 : v % 2 = w % 2 := by omega
  cases u <;> simp only [mkCommand, h1, h0]

theorem mkCommand_ctrl_zero (u : UnitId) : mkCommand u 0 0 = none := by
  cases u <;> rfl

theorem Inf.writeConfig_of_busy {u : Inf} (h : u.flags.busy = true) (n v : Nat) : u.writeConfig n v = u := if_pos h

theorem Dfl.writeConfig_of_busy {u : Dfl} (h : u.flags.busy = true) (n v : Nat) : u.writeConfig n v = u := if_pos h

/-- A write to a register that is no configuration register is ignored. -/
theorem Inf.writeConfig_of_unlisted {n : Nat} (h4 : n ≠ 4) (h5 : n ≠ 5) (v : Nat) (u : Inf) : u.writeConfig n v = u := by
  unfold Inf.writeConfig
  split
  · rfl
  · split
    · exact absurd rfl h4
    · exact absurd rfl h5
    · rfl

theorem Dfl.writeConfig_of_unlisted {n : Nat} (h : ¬ (4 ≤ n ∧ n ≤ 20)) (v : Nat) (u : Dfl) : u.writeConfig n v = u := by
  unfold Dfl.writeConfig
  split
  · rfl
  · split
    · omega
    · omega
    · omega
    · rw [if_neg (by omega)]

theorem State.writeConfig_inf_of_ignored {n v : Nat} {s : State} (h : s.inf.writeConfig n v = s.inf) :
    s.writeConfig .inf n v = s := congrArg (fun w => { s with inf := w }) h

theorem State.writeConfig_dfl_of_ignored {n v : Nat} {s : State} (h : s.dfl.writeConfig n v = s.dfl) :
    s.writeConfig .dfl n v = s := congrArg (fun w => { s with dfl := w }) h

/-- CTRL holds no configuration. -/
theorem State.writeConfig_ctrl (u : UnitId) (v : Nat) (s : State) : s.writeConfig u 0 v = s := by
  cases u with
  | inf => exact State.writeConfig_inf_of_ignored (Inf.writeConfig_of_unlisted (by decide) (by decide) v s.inf)
  | crc => rfl
  | dfl => exact State.writeConfig_dfl_of_ignored (Dfl.writeConfig_of_unlisted (by decide) v s.dfl)

/-- A write to CTRL is decided by its bits 0 and 1. -/
theorem hostWrite_ctrl_congr {v w : Nat} (h : v % 4 = w % 4) (u : UnitId) (s : State) :
    hostWrite u 0 v s = hostWrite u 0 w s := by
  rw [hostWrite_eq, hostWrite_eq, State.writeConfig_ctrl, State.writeConfig_ctrl, mkCommand_ctrl_congr (w := w % 2 ^ 32) (by omega)]

theorem hostWrite_ctrl_zero (u : UnitId) (s : State) : hostWrite u 0 0 s = .next s :=
  hostWrite_ignored u 0 0 s (mkCommand_ctrl_zero u) (State.writeConfig_ctrl u 0 s)

/-- A write without RESET is START or nothing. -/
theorem hostWrite_ctrl_start {v : Nat} (h : v / 2 % 2 = 0) (s : State) :
    (hostWrite .inf 0 v s = exec .infStart s ∨ hostWrite .inf 0 v s = .next s) ∧
    (hostWrite .dfl 0 v s = exec .defStart s ∨ hostWrite .dfl 0 v s = .next s) := by
  obtain hv | hv : v % 4 = 0 ∨ v % 4 = 1 := by omega
  · exact ⟨.inr ((hostWrite_ctrl_congr (w := 0) hv .inf s).trans (hostWrite_ctrl_zero .inf s)),
      .inr ((hostWrite_ctrl_congr (w := 0) hv .dfl s).trans (hostWrite_ctrl_zero .dfl s))⟩
  · exact ⟨.inl ((hostWrite_ctrl_congr (w := 1) hv .inf s).trans (hostWrite_eq .inf 0 1 s)),
      .inl ((hostWrite_ctrl_congr (w := 1) hv .dfl s).trans (hostWrite_eq .dfl 0 1 s))⟩

/-- A busy INF ignores every write without RESET. -/
theorem hostWrite_inf_of_busy {n v : Nat} {s : State} (hv : n = 0 → v / 2 % 2 = 0) (hb : s.inf.flags.busy = true) :
    hostWrite .inf n v s = .next s := by
  by_cases hn : n = 0
  · subst hn
    obtain h | h := (hostWrite_ctrl_start (hv rfl) s).1
    · exact h.trans (exec_infStart_of_ignored (.inl hb))
    · exact h
  · exact hostWrite_ignored .inf n v s (mkCommand_inf_eq_none hn _)
      (State.writeConfig_inf_of_ignored (Inf.writeConfig_of_busy hb n v))

/-- A busy DEF ignores every write without RESET. -/
theorem hostWrite_dfl_of_busy {n v : Nat} {s : State} (hv : n = 0 → v / 2 % 2 = 0) (hb : s.dfl.flags.busy = true) :
    hostWrite .dfl n v s = .next s := by
  by_cases hn : n = 0
  · subst hn
    obtain h | h := (hostWrite_ctrl_start (hv rfl) s).2
    · exact h.trans (exec_defStart_of_busy hb)
    · exact h
  · exact hostWrite_ignored .dfl n v s (mkCommand_dfl_eq_none hn _)
      (State.writeConfig_dfl_of_ignored (Dfl.writeConfig_of_busy hb n v))

theorem hostWrite_config {n v : Nat} {u : UnitId} (h : mkCommand u n (v % 2 ^ 32) = none) (s : State) :
    hostWrite u n v s = .next (s.writeConfig u n v) := by
  rw [hostWrite_eq, h]

/-! ### Register reads (10_state.md R41, R43) -/

theorem Inf.readReg_inLen (v m : Nat) (u : Inf) :
    Inf.readReg { u with inLen := v } m = if m = 4 then v else u.readReg m := by
  unfold Inf.readReg
  split <;> simp_all [Inf.status]

theorem Inf.readReg_expectLen (v m : Nat) (u : Inf) :
    Inf.readReg { u with expectLen := v } m = if m = 5 then v else u.readReg m := by
  unfold Inf.readReg
  split <;> simp_all [Inf.status]

theorem Dfl.readReg_inLen (v m : Nat) (u : Dfl) :
    Dfl.readReg { u with inLen := v } m = if m = 4 then v else u.readReg m := by
  unfold Dfl.readReg
  split <;> simp_all [Dfl.status]

theorem Dfl.readReg_bpp (b : BitVec 4) (m : Nat) (u : Dfl) :
    Dfl.readReg { u with bpp := b } m = if m = 5 then b.toNat else u.readReg m := by
  unfold Dfl.readReg
  split <;> simp_all [Dfl.status]

theorem Dfl.readReg_npass (b : BitVec 4) (m : Nat) (u : Dfl) :
    Dfl.readReg { u with npass := b } m = if m = 6 then b.toNat else u.readReg m := by
  unfold Dfl.readReg
  split <;> simp_all [Dfl.status]

/-- The registers of the sub-image descriptors are numbers 7 to 20, row bytes at the odd and row counts at the even ones. -/
theorem Dfl.readReg_descriptor {m : Nat} (h : 7 ≤ m ∧ m ≤ 20) (u : Dfl) :
    u.readReg m = if (m - 7) % 2 = 0 then u.rowBytes.getD ((m - 7) / 2) 0 else u.rows.getD ((m - 7) / 2) 0 := by
  unfold Dfl.readReg
  split
  case h_10 => exact if_pos h
  all_goals omega

/-- The other registers of DEF do not show the descriptors. -/
theorem Dfl.readReg_of_descriptors (rowBytes rows : List Nat) {m : Nat} (h : ¬ (7 ≤ m ∧ m ≤ 20)) (u : Dfl) :
    Dfl.readReg { u with rowBytes := rowBytes, rows := rows } m = u.readReg m := by
  unfold Dfl.readReg
  split <;> simp [h, Dfl.status]

/-- A write of a descriptor register. -/
theorem Dfl.readReg_set {n : Nat} (hn : 7 ≤ n ∧ n ≤ 20) {u : Dfl} (hrowBytes : u.rowBytes.length = 7)
    (hrows : u.rows.length = 7) (v m : Nat) :
    Dfl.readReg (if (n - 7) % 2 = 0 then { u with rowBytes := u.rowBytes.set ((n - 7) / 2) v }
      else { u with rows := u.rows.set ((n - 7) / 2) v }) m = if m = n then v else u.readReg m := by
  by_cases hm : 7 ≤ m ∧ m ≤ 20
  · rw [Dfl.readReg_descriptor hm, Dfl.readReg_descriptor hm]
    by_cases hpar : (n - 7) % 2 = 0
    · rw [if_pos hpar, getD_set_of_lt (by omega)]
      by_cases hpar' : (m - 7) % 2 = 0
      · rw [if_pos hpar', if_pos hpar']
        exact if_congr (by omega) rfl rfl
      · rw [if_neg hpar', if_neg hpar', if_neg (by omega)]
    · rw [if_neg hpar, getD_set_of_lt (by omega)]
      by_cases hpar' : (m - 7) % 2 = 0
      · rw [if_pos hpar', if_pos hpar', if_neg (by omega)]
      · rw [if_neg hpar', if_neg hpar']
        exact if_congr (by omega) rfl rfl
  · rw [if_neg (show m ≠ n by omega)]
    split <;> exact Dfl.readReg_of_descriptors _ _ hm u

/-- What a configuration write of INF makes of it: its register reads the value, every other what it read before, and only the
configuration has changed. -/
theorem Inf.writeConfig_reads {u : Inf} (hb : u.flags.busy = false) {n : Nat} (hn : n = 4 ∨ n = 5) (v : Nat) :
    (∀ m, (u.writeConfig n v).readReg m = if m = n then v else u.readReg m) ∧
    u.writeConfig n v = { u with inLen := (u.writeConfig n v).inLen, expectLen := (u.writeConfig n v).expectLen } := by
  have hnot : ¬ u.flags.busy = true := by rw [hb]; nofun
  unfold Inf.writeConfig
  rw [if_neg hnot]
  obtain rfl | rfl := hn
  · exact ⟨fun m => Inf.readReg_inLen v m u, rfl⟩
  · exact ⟨fun m => Inf.readReg_expectLen v m u, rfl⟩

/-- What a configuration write of DEF makes of it; its BPP and NPASS have 4 bits. -/
theorem Dfl.writeConfig_reads {u : Dfl} (hb : u.flags.busy = false) (hrowBytes : u.rowBytes.length = 7)
    (hrows : u.rows.length = 7) {n : Nat} (hn : 4 ≤ n ∧ n ≤ 20) (v : Nat) :
    (∀ m, (u.writeConfig n v).readReg m = if m = n then (if n = 5 ∨ n = 6 then v % 16 else v) else u.readReg m) ∧
    u.writeConfig n v = { u with
      inLen := (u.writeConfig n v).inLen, bpp := (u.writeConfig n v).bpp, npass := (u.writeConfig n v).npass
      rowBytes := (u.writeConfig n v).rowBytes, rows := (u.writeConfig n v).rows } := by
  have hnot : ¬ u.flags.busy = true := by rw [hb]; nofun
  unfold Dfl.writeConfig
  rw [if_neg hnot]
  split
  · exact ⟨fun m => Dfl.readReg_inLen v m u, rfl⟩
  · exact ⟨fun m => Dfl.readReg_bpp (BitVec.ofNat 4 v) m u, rfl⟩
  · exact ⟨fun m => Dfl.readReg_npass (BitVec.ofNat 4 v) m u, rfl⟩
  · have hne : n ≠ 4 ∧ n ≠ 5 ∧ n ≠ 6 := ⟨‹_›, ‹_›, ‹_›⟩
    have hn' : 7 ≤ n ∧ n ≤ 20 := by omega
    have hwhole : (if n = 5 ∨ n = 6 then v % 16 else v) = v := if_neg (show ¬ (n = 5 ∨ n = 6) by omega)
    rw [if_pos hn', hwhole]
    refine ⟨Dfl.readReg_set hn' hrowBytes hrows v, ?_⟩
    split <;> rfl

/-- Settles O40: a write that is no command goes to the configuration (`hostWrite_config`), which a busy unit keeps. -/
theorem configurationWrites : Obligations.ConfigurationWrites := by
  unfold Obligations.ConfigurationWrites
  intro s n v
  refine ⟨fun hv => ⟨hostWrite_inf_of_busy hv, hostWrite_dfl_of_busy hv⟩, fun hb hn => ?_, fun hb hrb hrs h4 h20 => ?_,
    fun hn => ?_, fun hn => ?_, fun u => ⟨fun hv => ?_, hostWrite_ctrl_congr (by omega) u s⟩⟩
  · obtain ⟨hreads, hregs⟩ := Inf.writeConfig_reads hb hn v
    refine ⟨_, hostWrite_config (mkCommand_inf_eq_none (by omega) _) s, (hreads n).trans (if_pos rfl), fun u m hne => ?_,
      congrArg (fun w => { s with inf := w }) hregs⟩
    cases u with
    | inf => exact (hreads m).trans (if_neg fun h : m = n => hne (by rw [h]))
    | crc | dfl => rfl
  · obtain ⟨hreads, hregs⟩ := Dfl.writeConfig_reads hb hrb hrs ⟨h4, h20⟩ v
    refine ⟨_, hostWrite_config (mkCommand_dfl_eq_none (by omega) _) s, (hreads n).trans (if_pos rfl), fun u m hne => ?_,
      congrArg (fun w => { s with dfl := w }) hregs⟩
    cases u with
    | dfl => exact (hreads m).trans (if_neg fun h : m = n => hne (by rw [h]))
    | inf | crc => rfl
  · obtain ⟨h0, h4, h5⟩ : n ≠ 0 ∧ n ≠ 4 ∧ n ≠ 5 := by omega
    exact ⟨hostWrite_ignored .inf n v s (mkCommand_inf_eq_none h0 _)
        (State.writeConfig_inf_of_ignored (Inf.writeConfig_of_unlisted h4 h5 v s.inf)),
      hostWrite_ignored .crc n v s (mkCommand_crc_eq_none hn _) rfl⟩
  · obtain ⟨h0, hlisted⟩ := not_or.1 hn
    exact hostWrite_ignored .dfl n v s (mkCommand_dfl_eq_none h0 _)
      (State.writeConfig_dfl_of_ignored (Dfl.writeConfig_of_unlisted hlisted v s.dfl))
  · exact (hostWrite_ctrl_congr (w := 0) hv u s).trans (hostWrite_ctrl_zero u s)

/-! ### The status registers (10_state.md R41 to R43) -/

theorem Phase.number_lt (q : Phase) : q.number < 16 := by
  cases q <;> decide

/-- The four flags of a status register. -/
theorem Flags.bits_fields (f : Flags) :
    f.bits % 2 = f.busy.toNat ∧ f.bits / 2 % 2 = f.done.toNat ∧ f.bits / 4 % 2 = f.fault.toNat ∧
    f.bits / 8 % 2 = f.outValid.toNat ∧ f.bits < 16 := by
  obtain ⟨busy, done, fault, outValid⟩ := f
  revert busy done fault outValid
  decide

/-- Settles O41: a status register is the sum of its fields, each below the next one's place. -/
theorem statusRegisterFields : Obligations.StatusRegisterFields := by
  unfold Obligations.StatusRegisterFields
  intro s
  refine ⟨?_, ?_, ?_, ?_⟩
  · obtain ⟨h0, h1, h2, h3, hbits⟩ := s.inf.flags.bits_fields
    have hphase := s.inf.phase.number_lt
    have hbfinal := s.inf.bfinal.toNat_lt
    have hbtype := s.inf.btype.isLt
    dsimp only
    rw [show s.readReg .inf 1 = s.inf.flags.bits + 16 * s.inf.phase.number + 256 * s.inf.bfinal.toNat + 512 * s.inf.btype.toNat
      from rfl]
    omega
  · have hactive := s.crc.active.toNat_lt
    have hmatched := s.crc.matched.toNat_lt
    have hfault := s.crc.fault.toNat_lt
    dsimp only
    rw [show s.readReg .crc 1 = s.crc.active.toNat + 2 * s.crc.matched.toNat + 4 * s.crc.fault.toNat from rfl]
    omega
  · obtain ⟨h0, h1, h2, h3, hbits⟩ := s.dfl.flags.bits_fields
    dsimp only
    rw [show s.readReg .dfl 1 = s.dfl.flags.bits + 16 * (s.dfl.pass % 8) from rfl]
    omega
  · have hs1 := s.inf.s1.isLt
    rw [show s.readReg .inf 7 = s.inf.s2.toNat * 65536 + s.inf.s1.toNat from rfl]
    omega

/-! ### The state after reset (10_state.md R55) -/

/-- Settles O43, part by part: each unit's reset leaves it legal. -/
theorem resetStateIsLegal : Obligations.ResetStateIsLegal := by
  unfold Obligations.ResetStateIsLegal
  exact ⟨Inf.reset_controlInv 0, Inf.reset_tablesInv 0, Inf.windowInv_outputInvariant.empty ⟨rfl, rfl, rfl⟩,
    Inf.reset_memoryInv 0, Inf.adlerInv_outputInvariant.empty ⟨rfl, rfl, rfl⟩, Crc.reset_inv, Dfl.reset_inv 0⟩

end Sys2Proof.Machine
